-- ==== Sys2Proof/Word.lean ====
section
/-! DEFINITION. The word type of the command port, the byte, the shape of an element-indexed
buffer space, and the two records of the display side that hold plain data. -/

namespace Sys2Proof

/-- A command word, a response word or a CSR: 32 bits, bit 0 the least significant
(30_encoding.md R110, 20_memory.md R72). -/
abbrev Word := BitVec 32

/-- A sample, or one ASCII code of a label string: 8 bits. -/
abbrev Byte := BitVec 8

/-- The storage of one buffer space: (index, element) pairs, indices strictly rising. An index that
is not listed holds NO VALUE (10_state.md R57): there is no element value that an unlisted index
reads as, so no entry can be redundant. -/
abbrev Mem (α : Type) := List (Nat × α)

/-- One text request held by the display: `(x, y, scale, string)` (10_state.md R53). The string is
its ASCII codes, first character first (47_renderer.md R271). -/
structure TextReq where
  x : Nat
  y : Nat
  scale : Nat
  str : List Byte
deriving DecidableEq, Repr

/-- A picture, the pair (DF, TXT) that a flush hands to the device (10_state.md R53). -/
structure Frame where
  pixels : Mem (BitVec 1)
  texts : List TextReq
deriving DecidableEq, Repr

end Sys2Proof
end

