-- ==== Sys2Proof/Syntax.lean ====
section
/-! DEFINITION. The twelve commands of SAPB (30_encoding.md R113), one constructor per row of
spec/opcode_table.json. -/

namespace Sys2Proof

/-- A decoded command. Only LD has operands: a space number and an element index, both unsigned and
used as they stand (30_encoding.md R112, R114). The operands are numbers, so that `wellFormed` says
which of them the encoding can hold. -/
inductive Instr where
  | nop
  | capture
  | rmdc
  | xfexec
  | map
  | render
  | flush
  | frame
  | run
  | xfinit
  | xfrel
  | ld (space index : Nat)
deriving DecidableEq, Repr

end Sys2Proof
end

