-- ==== Sys2Proof/WellFormed.lean ====
section
/-! DEFINITION. Which commands the 32-bit encoding can hold. -/

namespace Sys2Proof

/-- A command is well formed when its operands fit their fields: `space` has 4 bits and `index` 16
(30_encoding.md R112). A reserved space number 10 to 15 or an index outside its space IS well
formed: the word decodes as LD and LD raises IDX (R116). -/
def Instr.wellFormed : Instr → Bool
  | .ld space index => decide (space < 16) && decide (index < 65536)
  | .nop | .capture | .rmdc | .xfexec | .map | .render | .flush | .frame | .run | .xfinit
  | .xfrel => true

end Sys2Proof
end

