-- ==== Sys2Proof/Decode.lean ====
section
/-! DEFINITION. The command decoder, total on every 32-bit word, and the encoder
(30_encoding.md sections 1 to 4). -/

namespace Sys2Proof

/-- Why a word is an illegal command. Both are architectural: step answers them with the fault
ILLCMD in MODE IDLE and with REFUSED in MODE HALTED (30_encoding.md R115, R116, R122). -/
inductive DecodeError where
  /-- The opcode byte is not in the table of R113 (R115). -/
  | reservedOpcode (op : BitVec 8)
  /-- The opcode byte is in the table and the `zero` field of its format is not 0 (R116). -/
  | nonzeroZero (op : BitVec 8)
deriving DecidableEq, Repr

/-- The field `op`, bits [31:24], of both formats (R111, R112). -/
def opField (w : Word) : BitVec 8 := w.extractLsb' 24 8

/-- The field `zero`, bits [23:0], of format Z (R111). -/
def zeroFieldZ (w : Word) : BitVec 24 := w.extractLsb' 0 24

/-- The field `space`, bits [23:20], of format L (R112). -/
def spaceField (w : Word) : BitVec 4 := w.extractLsb' 20 4

/-- The field `zero`, bits [19:16], of format L (R112). -/
def zeroFieldL (w : Word) : BitVec 4 := w.extractLsb' 16 4

/-- The field `index`, bits [15:0], of format L (R112). -/
def indexField (w : Word) : BitVec 16 := w.extractLsb' 0 16

/-- The opcode byte of each command (R113). -/
def Instr.opcode : Instr → BitVec 8
  | .nop => 0x00#8
  | .capture => 0x01#8
  | .rmdc => 0x02#8
  | .xfexec => 0x03#8
  | .map => 0x04#8
  | .render => 0x05#8
  | .flush => 0x06#8
  | .frame => 0x08#8
  | .run => 0x09#8
  | .xfinit => 0x10#8
  | .xfrel => 0x11#8
  | .ld _ _ => 0x20#8

/-- The format Z command of an opcode byte, `none` for the byte of LD and for a reserved byte
(R113, R115). -/
def formatZ? (op : BitVec 8) : Option Instr :=
  if op = 0x00#8 then some .nop
  else if op = 0x01#8 then some .capture
  else if op = 0x02#8 then some .rmdc
  else if op = 0x03#8 then some .xfexec
  else if op = 0x04#8 then some .map
  else if op = 0x05#8 then some .render
  else if op = 0x06#8 then some .flush
  else if op = 0x08#8 then some .frame
  else if op = 0x09#8 then some .run
  else if op = 0x10#8 then some .xfinit
  else if op = 0x11#8 then some .xfrel
  else none

/-- The decoder (R125): the opcode byte first, then the `zero` field of its format. Every word is
exactly one of the twelve commands or illegal (R117). -/
def decode (w : Word) : Except DecodeError Instr :=
  match formatZ? (opField w) with
  | some i => if zeroFieldZ w = 0#24 then .ok i else .error (.nonzeroZero (opField w))
  | none =>
    if opField w = 0x20#8 then
      if zeroFieldL w = 0#4 then .ok (.ld (spaceField w).toNat (indexField w).toNat)
      else .error (.nonzeroZero (opField w))
    else .error (.reservedOpcode (opField w))

/-- The encoder: the word of a well-formed command, its fields from bit 31 down (R111, R112): `op`,
then in format Z `zero`, in format L `space`, `zero`, `index`; every `zero` field 0. -/
def encode (i : Instr) : Word :=
  match i with
  | .ld space index => i.opcode ++ BitVec.ofNat 4 space ++ 0#4 ++ BitVec.ofNat 16 index
  | .nop | .capture | .rmdc | .xfexec | .map | .render | .flush | .frame | .run | .xfinit
  | .xfrel => i.opcode ++ 0#24

/-- The command the decoder reads from a word given as a number of `nbits` bits (the bits above are
0). The command port carries one parallel 32-bit word, so there is no byte order to lay out
(20_memory.md R72, 30_encoding.md R110). -/
def decodeTableWord (nbits w : Nat) : Option Instr :=
  match decode (BitVec.ofNat 32 (w % 2 ^ nbits)) with
  | .ok i => some i
  | .error _ => none

end Sys2Proof
end

