-- ==== Sys2Proof/Config.lean ====
section
/-! DEFINITION. The parameter record of SAPB (00_scope.md section 4), its derived parameters, the
four profiles the spec names, and the free values: constants without a body that stand for what
the collaborators answer and the rules do not fix. -/

namespace Sys2Proof

/-- The parameter record (00_scope.md R5 and the table after it). A derived parameter (N, NB, FRAC,
LEVELS, NLBL ...) is a function below, not a field. `engine` is no parameter of SAPB: it is a table of
answers of the transform engine that a run may fix (notes/assumptions/6.md). -/
structure Config where
  /-- LOGN, log2 of the sample count -/
  logN : Nat
  /-- FS, sample rate in hertz -/
  fs : Nat
  /-- CAP_CH, capture channel, used by no rule -/
  capCh : Nat
  /-- BW, width of a bin's real and imaginary part -/
  bw : Nat
  /-- W_PX, bitmap width -/
  wPx : Nat
  /-- H_PX, bitmap height -/
  hPx : Nat
  /-- W_COLS, number of bar columns -/
  wCols : Nat
  /-- BAR_H, height of the bar area and clamp bound -/
  barH : Nat
  /-- ZOOM_MAX[0 .. LEVELS-1] -/
  zoomMax : List Nat
  /-- AGG = 1: the two-bin window -/
  agg : Bool
  /-- GAIN_MODE = 1: live gain -/
  gainLive : Bool
  /-- GAIN_W, width of a gain reading -/
  gainW : Nat
  /-- SCALE_MUL -/
  scaleMul : Nat
  /-- SCALE_SHIFT -/
  scaleShift : Nat
  /-- LABEL_STEP, columns between labels -/
  labelStep : Nat
  /-- GRID_Y, rows between horizontal guidelines -/
  gridY : Nat
  /-- GRID_X, pixels between vertical ticks -/
  gridX : Nat
  /-- DOT, pitch of a dotted line -/
  dot : Nat
  /-- CHAR_W -/
  charW : Nat
  /-- CHAR_H -/
  charH : Nat
  /-- TEXT_SCALE -/
  textScale : Nat
  /-- HANDLE_W, width of the transform engine's handle -/
  handleW : Nat
  /-- answers of the transform engine that a run fixes: (input vector, output vector) -/
  engine : List (List Int × List (Int × Int))
deriving DecidableEq, Repr

/-- N, samples per acquisition, `2^LOGN`. -/
def Config.n (c : Config) : Nat := 2 ^ c.logN

/-- NB, number of bins, `N/2 + 1`. -/
def Config.nb (c : Config) : Nat := c.n / 2 + 1

/-- FRAC, fractional bits of a CenteredSample element: LOGN (R6). -/
def Config.frac (c : Config) : Nat := c.logN

/-- SUM_W, accumulator width. -/
def Config.sumW (c : Config) : Nat := 8 + c.logN

/-- CS_W, width of a CenteredSample element. -/
def Config.csW (c : Config) : Nat := 9 + c.logN

/-- EW, width of a column energy. -/
def Config.ew (c : Config) : Nat := 2 * c.bw + 1

/-- LEVELS, the number of zoom levels. -/
def Config.levels (c : Config) : Nat := c.zoomMax.length

/-- NLBL, number of labels, `ceil(W_COLS / LABEL_STEP)`. -/
def Config.nlbl (c : Config) : Nat := (c.wCols + c.labelStep - 1) / c.labelStep

/-- Number of pixels of DF. -/
def Config.pixels (c : Config) : Nat := c.wPx * c.hPx

/-- ZOOM_MAX[l] for `l < LEVELS`, and 0 above, as ZOOM_TAB reads (10_state.md R49). -/
def Config.zoomAt (c : Config) (l : Nat) : Nat := c.zoomMax.getD l 0

/-- Profile B, the source's "N=1024 with zoom levels and fixed gain". -/
def Config.profileB : Config where
  logN := 10
  fs := 50000
  capCh := 0
  bw := 32
  wPx := 128
  hPx := 32
  wCols := 127
  barH := 24
  zoomMax := [512, 256, 128, 64]
  agg := true
  gainLive := false
  gainW := 12
  scaleMul := 1
  scaleShift := 47
  labelStep := 32
  gridY := 8
  gridX := 32
  dot := 2
  charW := 6
  charH := 8
  textScale := 1
  handleW := 16
  engine := []

/-- Profile A, the source's "N=512 with potentiometer gain". -/
def Config.profileA : Config :=
  { Config.profileB with
    logN := 9, zoomMax := [256], agg := false, gainLive := true, scaleShift := 32 }

/-- Profile T, the spec's small profile for test vectors. -/
def Config.profileT : Config where
  logN := 2
  fs := 6000
  capCh := 0
  bw := 16
  wPx := 8
  hPx := 12
  wCols := 7
  barH := 4
  zoomMax := [2, 1]
  agg := true
  gainLive := false
  gainW := 12
  scaleMul := 1
  scaleShift := 18
  labelStep := 4
  gridY := 2
  gridX := 4
  dot := 2
  charW := 2
  charH := 8
  textScale := 1
  handleW := 16
  engine := []

/-- Profile TL: profile T with live gain, one bin per column and one zoom level. -/
def Config.profileTL : Config :=
  { Config.profileT with gainLive := true, agg := false, zoomMax := [2], scaleShift := 4 }

/-- FREE VALUE. The sample the capture engine delivers at a draw that no tape fixes
(41_capture.md R163: nothing may be assumed of it). -/
opaque Config.freeSample : Nat → Byte

/-- FREE VALUE. The gain reading at a draw that no tape fixes (20_memory.md R92). -/
opaque Config.freeGain : Nat → BitVec 16

/-- FREE VALUE. The transform engine's answer `(ok, handle)` to an init request at a draw that no
tape fixes (20_memory.md R88). -/
opaque Config.freeInit : Nat → Bool × BitVec 32

/-- FREE VALUE. The display's `ok` after a flush at a draw that no tape fixes (20_memory.md R91). -/
opaque Config.freeFlush : Nat → Bool

/-- FREE VALUE. What DEV is after a flush answered `ok = 0` (20_memory.md R91: unspecified). -/
opaque Config.freeDev : Nat → Option Frame

/-- FREE VALUE. The transform engine's function: the real and imaginary part of the bin of a given
index, for an input vector (43_fft_wrapper.md R190: a function of the input alone, and nothing else
is assumed of it but R191). -/
opaque Config.freeBin : List Int → Nat → Int × Int

end Sys2Proof
end

