-- ==== Sys2Proof/Machine/State.lean ====
section
/-! DEFINITION. The state of SAPB as plain data: the registers and flags of 10_state.md sections 2 to
4, the buffer spaces of section 6, the display-side state of section 7, the event history of
20_memory.md R95, the parameter record, and the outside world's inputs. -/

namespace Sys2Proof.Machine

/-- MODE (10_state.md R22). -/
inductive Mode where
  /-- 0: no command is executing -/
  | idle
  /-- 1: a FRAME command is in progress -/
  | frame1
  /-- 2: a RUN command is in progress -/
  | run
  /-- 3: a fault has been taken -/
  | halted
deriving DecidableEq, Repr

/-- The values of SEQ that occur, 0 to 5: the stage of a frame (10_state.md R23). -/
inductive Stage where
  | capture
  | rmdc
  | xfexec
  | map
  | render
  | flush
deriving DecidableEq, Repr

/-- The nine causes of a fault (60_exceptions.md R301). -/
inductive Cause where
  | illcmd
  | seq
  | len
  | noinit
  | reinit
  | xfalloc
  | dispfail
  | idx
  | unwr
deriving DecidableEq, Repr

/-- The FAULT register (10_state.md R36): CODE, OP, STAGE. -/
structure FaultReg where
  code : BitVec 4
  op : BitVec 8
  stage : BitVec 3
deriving DecidableEq, Repr

/-- The collaborators a command can wait for (20_memory.md R98). -/
inductive Collaborator where
  | captureEngine
  | transformEngine
  | display
deriving DecidableEq, Repr

/-- `rsp_status` (30_encoding.md R121); status 3 is never sent. -/
inductive Status where
  | ok
  | fault
  | refused
deriving DecidableEq, Repr

/-- A request on the display port (20_memory.md R90). -/
inductive DispReq where
  | clear
  | setPx (x y : Nat)
  | text (x y scale : Nat) (str : List Byte)
  | flush
deriving DecidableEq, Repr

/-- The entries of the event history (20_memory.md R95). A request stays recorded when the engine never
answers it whole (10_state.md R54): `xfInitRequest` is XfInit without its answer, and the vectors of
`xfExec` are the beats that have crossed the port. -/
inductive Event where
  | capDrain
  | capStart (n : Nat)
  | capSample (k : Nat) (value : Byte)
  | xfInit (n : Nat) (ok : Bool) (handle : BitVec 32)
  | xfInitRequest (n : Nat)
  | xfExec (handle : BitVec 32) (input : List Int) (output : List (Int × Int))
  | xfRelease (handle : BitVec 32)
  | disp (req : DispReq)
  | flushAnswer (ok : Bool)
  | gainSample (value : BitVec 16)
  | zoomEvent
  | respond (status : Status) (data : Word)
deriving DecidableEq, Repr

/-- Whose turn it is: the sequencer's, the zoom controller's (one trigger event), or the host's to
reset (`.zoom` and `.reset` of a script, 30_encoding.md R123). -/
inductive Turn where
  /-- one turn of the sequencer -/
  | sequencer
  /-- one turn of the sequencer inside the command that is executing; it takes no word, and passes when
  no command is executing -/
  | stage
  /-- the sequencer's turns up to the one with `cmd_ready` 1, in which it takes the presented word: the
  host holds its word until it is taken (70_reset_and_hazards.md R363) -/
  | word
  /-- the sequencer's turns until no command is executing, or the one that is waits for ever: the host
  has seen all the responses it will see -/
  | answered
  /-- one trigger event -/
  | zoom
  /-- one reset -/
  | reset
deriving DecidableEq, Repr

/-- How many more handshakes each collaborator answers before it falls silent for ever; `none`: it
always answers (20_memory.md R98). -/
structure Patience where
  cap : Option Nat
  xf : Option Nat
  disp : Option Nat
deriving DecidableEq, Repr

/-- The outside world, as plain data the step reads. None of it is state of SAPB (10_state.md R21);
which list holds what, and what happens beyond its end, is in notes/assumptions/2.md to 5.md. -/
structure Env where
  /-- whose turns come next, in order; when it is empty the sequencer has every turn -/
  sched : List Turn
  /-- the words the host will present on the command port, in order -/
  cmds : List Word
  /-- the next samples of the capture engine; beyond the end `Config.freeSample` -/
  samples : List Byte
  /-- the next gain readings; beyond the end `Config.freeGain` -/
  gains : List (BitVec 16)
  /-- the next answers to init requests; beyond the end `Config.freeInit` -/
  inits : List (Bool × BitVec 32)
  /-- the next answers to flush requests; beyond the end `Config.freeFlush` -/
  flushes : List Bool
  /-- how many more handshakes the capture engine answers; `none`: it always answers -/
  capLeft : Option Nat
  /-- how many more handshakes the transform engine answers; `none`: it always answers -/
  xfLeft : Option Nat
  /-- how many more handshakes the display answers; `none`: it always answers -/
  dispLeft : Option Nat
  /-- what the collaborators answer from each coming reset on; beyond the end they go on as they are
  (70_reset_and_hazards.md R360, notes/assumptions/12.md) -/
  afterResets : List Patience
  /-- how many free values have been drawn; no statement rests on its value -/
  drawn : Nat
deriving DecidableEq, Repr

/-- The whole machine. Registers whose width is a parameter are numbers, with their width as a range in
`State.registersInRange` (Safety.lean); registers of one fixed width are bit vectors. -/
structure State where
  /-- the parameter record, constant (00_scope.md R5) -/
  cfg : Config
  /-- MODE (R22) -/
  mode : Mode
  /-- SEQ (R23) -/
  seq : Stage
  /-- the silent collaborator the command being executed waits for (60_exceptions.md R323) -/
  waiting : Option Collaborator
  /-- SB_CNT (R26) -/
  sbCnt : Nat
  /-- IN_CNT (R27) -/
  inCnt : Nat
  /-- BIN_CNT (R28) -/
  binCnt : Nat
  /-- SUM (R29) -/
  sum : Nat
  /-- MEAN_FX (R30) -/
  meanFx : Nat
  /-- ZOOM_LEVEL (R31) -/
  zoomLevel : BitVec 4
  /-- ZSNAP (R32) -/
  zsnap : BitVec 4
  /-- GAIN_LATCH (R33), GAIN_W <= 16 bits -/
  gainLatch : BitVec 16
  /-- XF_HANDLE (R34), HANDLE_W <= 32 bits -/
  xfHandle : BitVec 32
  /-- LBL_KHZ[j] (R35) -/
  lbl : Mem (BitVec 16)
  /-- FAULT (R36) -/
  fault : FaultReg
  /-- XF_READY (R37) -/
  xfReady : Bool
  /-- COL_VALID (R38) -/
  colValid : Bool
  /-- DF_VALID (R39) -/
  dfValid : Bool
  /-- space SB -/
  sb : Mem Byte
  /-- space CS, signed Q9.FRAC -/
  cs : Mem Int
  /-- space BIN_RE, signed -/
  binRe : Mem Int
  /-- space BIN_IM, signed -/
  binIm : Mem Int
  /-- space COL_H -/
  colH : Mem (BitVec 5)
  /-- space COL_BIN -/
  colBin : Mem Nat
  /-- DF (R53) -/
  df : Mem (BitVec 1)
  /-- TXT (R53) -/
  txt : List TextReq
  /-- DEV (R53) -/
  dev : Option Frame
  /-- the event history, oldest first (20_memory.md R95) -/
  history : List Event
  /-- the outside world -/
  env : Env
deriving DecidableEq, Repr

/-- The buffer spaces a stage reads, named in `Fault.noValue`. -/
inductive StageInput where
  | sb
  | cs
  | bins
  | columns
deriving DecidableEq, Repr

/-- The machine stops: the rules give it no continuation. These are not SAPB's faults (those are fault
entries, next states, 60_exceptions.md R310). -/
inductive Fault where
  /-- A stage whose input passed its validity check found an element that holds no value. Raised by
  RMDC, XFEXEC, MAP and RENDER; 10_state.md R57: the model must give such an element no value.
  Unreachable from reset (`State.buffersFilled`). Safe: the model stops where it would have to
  invent a value. -/
  | noValue (input : StageInput)
deriving DecidableEq, Repr

/-- The model gives no meaning. -/
inductive Refusal where
  /-- Raised by an arm of exec whose instruction has no meaning yet; no arm is left. Safe. -/
  | notModelled (mnemonic : String)
  /-- Raised by step when the parameter record breaks a constraint of 00_scope.md section 4: it
  describes no SAPB and the model refuses it (R6). Safe. -/
  | badConfig
deriving DecidableEq, Repr

/-- A world that says nothing in advance: no schedule, no command, every draw free, every collaborator
answering. -/
def Env.quiet : Env where
  sched := []
  cmds := []
  samples := []
  gains := []
  inits := []
  flushes := []
  capLeft := none
  xfLeft := none
  dispLeft := none
  afterResets := []
  drawn := 0

/-- The machine with parameter record `c` right after reset (10_state.md R56, 70_reset_and_hazards.md
R340, R341): every register and flag 0, no element of a buffer holds a value, DEV none. -/
def State.resetOf (c : Config) : State where
  cfg := c
  mode := .idle
  seq := .capture
  waiting := none
  sbCnt := 0
  inCnt := 0
  binCnt := 0
  sum := 0
  meanFx := 0
  zoomLevel := 0#4
  zsnap := 0#4
  gainLatch := 0#16
  xfHandle := 0#32
  lbl := (List.range c.nlbl).map (fun j => (j, 0#16))
  fault := ⟨0#4, 0#8, 0#3⟩
  xfReady := false
  colValid := false
  dfValid := false
  sb := []
  cs := []
  binRe := []
  binIm := []
  colH := []
  colBin := []
  df := []
  txt := []
  dev := none
  history := []
  env := .quiet

/-- The machine right after reset, with profile B as its parameter record
(notes/assumptions/1.md). -/
def State.reset : State := State.resetOf Config.profileB

end Sys2Proof.Machine
end

