-- ==== Sys2Proof/Machine/Flags.lean ====
section
/-! DEFINITION. The status values: the codes of MODE, SEQ, the causes and the response status, the
FAULT and STATUS words, when a buffer is valid, when a command is accepted, and the output pins. -/

namespace Sys2Proof.Machine

/-- The 2 bits of MODE (10_state.md R22). -/
def Mode.code : Mode → BitVec 2
  | .idle => 0#2
  | .frame1 => 1#2
  | .run => 2#2
  | .halted => 3#2

/-- The 3 bits of SEQ (10_state.md R23). -/
def Stage.index : Stage → BitVec 3
  | .capture => 0#3
  | .rmdc => 1#3
  | .xfexec => 2#3
  | .map => 3#3
  | .render => 4#3
  | .flush => 5#3

/-- The stage that follows, wrapping after stage 5 (10_state.md R24). -/
def Stage.succ : Stage → Stage
  | .capture => .rmdc
  | .rmdc => .xfexec
  | .xfexec => .map
  | .map => .render
  | .render => .flush
  | .flush => .capture

/-- FAULT.STAGE of a fault raised outside a stage rule (60_exceptions.md R310). -/
def noStage : BitVec 3 := 7#3

/-- The cause codes (60_exceptions.md R301). -/
def Cause.code : Cause → BitVec 4
  | .illcmd => 1#4
  | .seq => 2#4
  | .len => 3#4
  | .noinit => 4#4
  | .reinit => 5#4
  | .xfalloc => 6#4
  | .dispfail => 7#4
  | .idx => 8#4
  | .unwr => 9#4

/-- `rsp_status` (30_encoding.md R121). -/
def Status.code : Status → BitVec 2
  | .ok => 0#2
  | .fault => 1#2
  | .refused => 2#2

/-- One bit of a status word. -/
def bit (b : Bool) : BitVec 1 := BitVec.ofBool b

/-- The FAULT CSR: CODE in [3:0], OP in [11:4], STAGE in [14:12] (10_state.md R47). -/
def FaultReg.word (f : FaultReg) : Word := 0#17 ++ f.stage ++ f.op ++ f.code

/-- The STATUS CSR (10_state.md R46): HALTED, XF_READY, COL_VALID, DF_VALID, MODE, SEQ from bit 0
up. -/
def State.statusWord (s : State) : Word :=
  0#23 ++ s.seq.index ++ s.mode.code ++ bit s.dfValid ++ bit s.colValid ++ bit s.xfReady ++
    bit (decide (s.mode = .halted))

/-- SB is valid (10_state.md R26, R50). -/
def State.sbValid (s : State) : Bool := decide (s.sbCnt = s.cfg.n)

/-- CS is valid (10_state.md R27, R50): also the wrapper's length check (43_fft_wrapper.md R194). -/
def State.csValid (s : State) : Bool := decide (s.inCnt = s.cfg.n)

/-- The bin buffer is valid (10_state.md R28, R50). -/
def State.binsValid (s : State) : Bool := decide (s.binCnt = s.cfg.nb)

/-- A command, or a stage of FRAME or RUN, is executing and waits for a collaborator that has fallen
silent (60_exceptions.md R323). -/
def State.stuck (s : State) : Bool := s.waiting.isSome

/-- `cmd_ready` between two steps (30_encoding.md R119): MODE is IDLE and no command is executing, or
MODE is HALTED. -/
def State.cmdReady (s : State) : Bool :=
  (decide (s.mode = .idle) && !s.stuck) || decide (s.mode = .halted)

/-- The output pins that show registers, and `cmd_ready` (10_state.md R55, 30_encoding.md R119). -/
structure Pins where
  cmdReady : Bool
  halted : Bool
  busy : Bool
  faultCode : BitVec 4
  zoomLevel : BitVec 4
deriving DecidableEq, Repr

/-- `busy` between two steps (10_state.md R55): MODE is 1 or 2, or a single command is executing,
which between two steps means that it waits. -/
def State.busy (s : State) : Bool :=
  decide (s.mode = .frame1) || decide (s.mode = .run) || s.stuck

/-- The pins between two steps. While `rst` is 1 they are all 0 (70_reset_and_hazards.md R342). -/
def State.pins (s : State) (rst : Bool) : Pins :=
  if rst then ⟨false, false, false, 0#4, 0#4⟩
  else ⟨s.cmdReady, decide (s.mode = .halted), s.busy, s.fault.code, s.zoomLevel⟩

end Sys2Proof.Machine
end

