-- ==== Sys2Proof/Machine/Ops.lean ====
section
/-! DEFINITION. The named operations over the buffer spaces, the registers and the outside world:
element read and write, handshakes and draws, the event history and the response port, the
invalidation of buffers, fault entry and reset, and the frame every command runs in. -/

namespace Sys2Proof.Machine

/-! ### Buffer spaces -/

/-- The element at an index, `none` when it holds no value (00_scope.md section 6, MemRead). -/
def memRead {α : Type} : Mem α → Nat → Option α
  | [], _ => none
  | (j, v) :: m, k => if j = k then some v else memRead m k

/-- The space with element `k` written (00_scope.md section 6, MemWrite). The indices stay strictly
rising. -/
def memWrite {α : Type} : Mem α → Nat → α → Mem α
  | [], k, v => [(k, v)]
  | (j, u) :: m, k, v =>
    if k < j then (k, v) :: (j, u) :: m
    else if k = j then (k, v) :: m
    else (j, u) :: memWrite m k v

/-- The space that holds `vs` at indices `k`, `k + 1`, ...: what writing them in index order leaves on
a space that holds nothing (20_memory.md R75). -/
def memOfListFrom {α : Type} : Nat → List α → Mem α
  | _, [] => []
  | k, v :: vs => (k, v) :: memOfListFrom (k + 1) vs

/-- The space that holds `vs` from index 0. -/
def memOfList {α : Type} (vs : List α) : Mem α := memOfListFrom 0 vs

/-- The values of a list of options, `none` when one of them is missing. -/
def collect {α : Type} : List (Option α) → Option (List α)
  | [] => some []
  | none :: _ => none
  | some a :: r =>
    match collect r with
    | some as => some (a :: as)
    | none => none

/-- Elements `0 .. n-1` in index order, `none` when one of them holds no value. -/
def memReadRange {α : Type} (m : Mem α) (n : Nat) : Option (List α) :=
  collect ((List.range n).map (memRead m))

/-- The canonical form from index `lo` up: indices strictly rising, the first at least `lo`. -/
def memWfFrom {α : Type} : Nat → Mem α → Bool
  | _, [] => true
  | lo, (k, _) :: m => decide (lo ≤ k) && memWfFrom (k + 1) m

/-- The canonical form of a space: indices strictly rising. -/
def memWf {α : Type} (m : Mem α) : Bool := memWfFrom 0 m

/-- Signed number of `w` bits with the low bits of `v`: what a `w`-bit signed port or field carries
(00_scope.md section 5). -/
def signedBits (w : Nat) (v : Int) : Int := v.bmod (2 ^ w)

/-! ### The outside world -/

/-- `want` handshakes offered to a collaborator that answers `left` more (`none`: always answers): how
many it answers, and how many it then has left (20_memory.md R97, R98). -/
def serve (left : Option Nat) (want : Nat) : Nat × Option Nat :=
  match left with
  | none => (want, none)
  | some k => (min want k, some (k - min want k))

/-- `count` draws: the tape first, then free values numbered from `drawn`. Answers the values, the rest
of the tape and the next number (00_scope.md section 6: a draw is a free input). -/
def drawMany {α : Type} (tape : List α) (free : Nat → α) (drawn count : Nat) :
    List α × List α × Nat :=
  (tape.take count ++ (List.range (count - tape.length)).map (fun j => free (drawn + j)),
    tape.drop count, drawn + (count - tape.length))

/-- One draw. -/
def drawOne {α : Type} (tape : List α) (free : Nat → α) (drawn : Nat) : α × List α × Nat :=
  match tape with
  | a :: r => (a, r, drawn)
  | [] => (free drawn, [], drawn + 1)

/-- The state with the outside world replaced. -/
def State.withEnv (s : State) (e : Env) : State := { s with env := e }

/-- The state that waits for a silent collaborator (60_exceptions.md R323). -/
def State.waitFor (s : State) (who : Collaborator) : State := { s with waiting := some who }

/-- The state at the start of a FRAME or a RUN: SEQ 0 (40_sequencer.md R143, R146). -/
def State.startLoop (s : State) (m : Mode) : State := { s with mode := m, seq := .capture }

/-- Events are appended to the history in program order (20_memory.md R95). -/
def State.record (s : State) (es : List Event) : State := { s with history := s.history ++ es }

/-- One beat on the response port (30_encoding.md R121). -/
def State.respond (s : State) (status : Status) (data : Word) : State :=
  s.record [.respond status data]

/-! ### Buffer validity -/

/-- The columns become invalid (10_state.md R38, R51): COL_H and COL_BIN then hold no value (R57).
LBL_KHZ are registers and keep theirs (notes/assumptions/9.md). -/
def State.clearColumns (s : State) : State := { s with colValid := false, colH := [], colBin := [] }

/-- The bins and everything downstream become invalid, DF excepted (10_state.md R51). -/
def State.clearBins (s : State) : State :=
  { s.clearColumns with binCnt := 0, binRe := [], binIm := [] }

/-- CS and everything downstream become invalid, DF excepted (10_state.md R51). -/
def State.clearCs (s : State) : State := { s.clearBins with inCnt := 0, cs := [] }

/-- SB and everything downstream become invalid, DF excepted (10_state.md R51, 41_capture.md R165). -/
def State.clearSb (s : State) : State := { s.clearCs with sbCnt := 0, sb := [] }

/-! ### Taking an exception, and the way out of it -/

/-- FAULT ENTRY (60_exceptions.md R310): FAULT records the cause, the opcode byte and the stage; MODE
becomes HALTED; the response is FAULT with the new FAULT CSR value. Nothing else changes: SEQ keeps
its value, nothing is saved, nothing is vectored. -/
def takeFault (c : Cause) (op : BitVec 8) (stage : BitVec 3) (s : State) : State :=
  { s with mode := .halted, fault := ⟨c.code, op, stage⟩ }.respond .fault
    (FaultReg.word ⟨c.code, op, stage⟩)

/-- The outside world across a reset: SAPB tells no collaborator (70_reset_and_hazards.md R343), but one
that had fallen silent may answer again (R360, notes/assumptions/12.md). -/
def Env.reset (e : Env) : Env :=
  match e.afterResets with
  | [] => e
  | p :: r => { e with capLeft := p.cap, xfLeft := p.xf, dispLeft := p.disp, afterResets := r }

/-- There is no return from a fault (60_exceptions.md R319): reset is the only way out of HALTED. All
state takes its reset value, a command in progress is abandoned without a response, and no
collaborator is told (70_reset_and_hazards.md R340, R343, R344). The history and the outside world
are not state of SAPB and go on (notes/assumptions/11.md, 12.md). -/
def resetStep (s : State) : State :=
  { State.resetOf s.cfg with history := s.history, env := s.env.reset }

/-! ### The frame of a command -/

/-- How a rule ends: completed; `raise Fault(c)`; waiting for ever on a collaborator; or stopped
because an element of its input holds no value. -/
inductive RuleResult where
  | done (s : State)
  | raised (c : Cause) (s : State)
  | stalled (who : Collaborator) (s : State)
  | noValue (input : StageInput)
deriving DecidableEq, Repr

/-- The answer to a command that MODE HALTED does not execute (30_encoding.md R121, R122): REFUSED with
the FAULT CSR; no state changes. -/
def refuseCommand (s : State) : Host.Outcome State Fault Refusal :=
  .next (s.respond .refused s.fault.word)

/-- A command word meets the block (30_encoding.md R119): in MODE IDLE with no command executing it is
executed; in MODE HALTED it is answered as `halted` says; otherwise `cmd_ready` is 0, the word waits
and nothing changes (notes/assumptions/13.md). -/
def accept (s : State) (idle halted : State → Host.Outcome State Fault Refusal) :
    Host.Outcome State Fault Refusal :=
  match s.mode with
  | .idle => if s.stuck then .next s else idle s
  | .halted => halted s
  | .frame1 | .run => .next s

/-- The end of a single command (40_sequencer.md R142): `Respond(OK, 0)`, or fault entry, or a
sequencer that waits (60_exceptions.md R323). -/
def finishCommand (op : BitVec 8) (stage : BitVec 3) :
    RuleResult → Host.Outcome State Fault Refusal
  | .done s => .next (s.respond .ok 0#32)
  | .raised c s => .next (takeFault c op stage s)
  | .stalled who s => .next (s.waitFor who)
  | .noValue input => .fault (.noValue input)

/-- A command that runs one rule: a single stage (40_sequencer.md R142), XFINIT or XFREL. -/
def runCommand (i : Instr) (stage : BitVec 3) (rule : State → RuleResult) (s : State) :
    Host.Outcome State Fault Refusal :=
  accept s (fun s => finishCommand i.opcode stage (rule s)) refuseCommand

end Sys2Proof.Machine
end

