-- ==== Sys2Proof/Machine/Magnitude.lean ====
section
/-! DEFINITION. The complex-magnitude and scaling unit (44_magnitude_scale.md): datapath functions
without a command and without state of their own. -/

namespace Sys2Proof.Machine

/-- Squared magnitude of one bin, `re*re + im*im`, exact (44_magnitude_scale.md R211). -/
def energyOf (re im : Int) : Nat := (re * re + im * im).toNat

/-- `ENERGY(i)` on the bin buffer, `none` when the bin holds no value (44_magnitude_scale.md R211). -/
def energyAt (binRe binIm : Mem Int) (i : Nat) : Option Nat :=
  match memRead binRe i, memRead binIm i with
  | some re, some im => some (energyOf re im)
  | _, _ => none

/-- `DIVISOR` (44_magnitude_scale.md R213): 1 in fixed mode, the reading with a minimum of 1 in live
mode. -/
def divisor (c : Config) (gain : BitVec 16) : Nat := if c.gainLive then max gain.toNat 1 else 1

/-- `SCALE(E) = ((E * SCALE_MUL) >> SCALE_SHIFT) div DIVISOR` (44_magnitude_scale.md R214). -/
def scale (c : Config) (gain : BitVec 16) (e : Nat) : Nat :=
  e * c.scaleMul / 2 ^ c.scaleShift / divisor c gain

/-- `CLAMP(h) = min(max(h, 0), BAR_H)` (44_magnitude_scale.md R215). `h` is never negative. -/
def clamp (c : Config) (h : Nat) : Nat := min (max h 0) c.barH

/-- `HEIGHT(E) = CLAMP(SCALE(E))` (44_magnitude_scale.md R216). -/
def height (c : Config) (gain : BitVec 16) (e : Nat) : Nat := clamp c (scale c gain e)

end Sys2Proof.Machine
end

