-- ==== Sys2Proof/Machine/Mapper.lean ====
section
/-! DEFINITION. The bin-to-pixel aggregator: MAP, stage 3 (45_bin_to_pixel.md). -/

namespace Sys2Proof.Machine

/-- `FREQ[i] = FS * i`, Q(32-LOGN).LOGN hertz (20_memory.md R79). -/
def freq (c : Config) (i : Nat) : Nat := c.fs * i

/-- Bin index of column `x` when the level's bound is `m`: `(M * x) div W_COLS`
(45_bin_to_pixel.md R228). -/
def binIndex (c : Config) (m x : Nat) : Nat := m * x / c.wCols

/-- `KHZ(i)`: the bin's frequency in kilohertz, rounded to the nearest integer, half up
(45_bin_to_pixel.md R233). -/
def khz (c : Config) (i : Nat) : Nat := (2 * freq c i + 1000 * c.n) / (2000 * c.n)

/-- Energy of the window of a column whose bin is `i` (45_bin_to_pixel.md R231): bin `i`, and bin
`i + 1` as well when AGG is 1, at every zoom level. -/
def windowEnergy (c : Config) (binRe binIm : Mem Int) (i : Nat) : Option Nat :=
  if c.agg then
    match energyAt binRe binIm i, energyAt binRe binIm (i + 1) with
    | some e₀, some e₁ => some (e₀ + e₁)
    | _, _ => none
  else energyAt binRe binIm i

/-- The columns' bin indices, column 0 first (45_bin_to_pixel.md R225, R228). -/
def columnBins (c : Config) (m : Nat) : List Nat := (List.range c.wCols).map (binIndex c m)

/-- The columns' energies, `none` when a bin holds no value. -/
def columnEnergies (c : Config) (binRe binIm : Mem Int) (m : Nat) : Option (List Nat) :=
  collect ((columnBins c m).map (windowEnergy c binRe binIm))

/-- The label values: label `j` is the label of column `j * LABEL_STEP` (45_bin_to_pixel.md R233,
R234). -/
def labelValues (c : Config) (m : Nat) : List (BitVec 16) :=
  (List.range c.nlbl).map (fun j => BitVec.ofNat 16 (khz c (binIndex c m (j * c.labelStep))))

/-- The gain sample at the start of MAP (45_bin_to_pixel.md R227, 20_memory.md R92): in live mode one
reading of the GAIN_W-bit port into GAIN_LATCH; in fixed mode the port is not sampled. -/
def sampleGain (s : State) : State :=
  if s.cfg.gainLive then
    let draw := drawOne s.env.gains Config.freeGain s.env.drawn
    let reading := BitVec.ofNat 16 (draw.1.toNat % 2 ^ s.cfg.gainW)
    { s.record [.gainSample reading] with
      gainLatch := reading
      env := { s.env with gains := draw.2.1, drawn := draw.2.2 } }
  else s

/-- The stage rule of MAP (45_bin_to_pixel.md R225): one read of ZOOM_LEVEL into ZSNAP (R226), the
gain sample, then every column and every label from that snapshot. -/
def mapStage (s : State) : RuleResult :=
  if s.binsValid then
    let s₁ := sampleGain { s.clearColumns with zsnap := s.zoomLevel }
    let m := s.cfg.zoomAt s.zoomLevel.toNat
    match columnEnergies s.cfg s.binRe s.binIm m with
    | none => .noValue .bins
    | some es =>
      .done { s₁ with
        colBin := memOfList (columnBins s.cfg m)
        colH := memOfList (es.map (fun e => BitVec.ofNat 5 (height s.cfg s₁.gainLatch e)))
        lbl := memOfList (labelValues s.cfg m)
        colValid := true }
  else .raised .seq s

/-- MAP (45_bin_to_pixel.md R225). -/
def execMap (s : State) : Host.Outcome State Fault Refusal :=
  runCommand .map Stage.map.index mapStage s

end Sys2Proof.Machine
end

