-- ==== Sys2Proof/Machine/Renderer.lean ====
section
/-! DEFINITION. The bar-graph renderer: RENDER (stage 4) and FLUSH (stage 5), and the display port
(47_renderer.md, 20_memory.md R90, R91). -/

namespace Sys2Proof.Machine

/-! ### The display port -/

/-- The fields of one beat of the display port (20_memory.md R90). -/
structure DispBeat where
  op : BitVec 2
  x : BitVec 8
  y : BitVec 8
  scale : BitVec 4
  len : BitVec 3
  text : BitVec 32
deriving DecidableEq, Repr

/-- `disp_text`: the first character in bits [7:0], the next in [15:8], unused bytes 0
(20_memory.md R90). -/
def packText : List Byte → BitVec 32
  | [] => 0#32
  | ch :: r => ch.setWidth 32 ||| (packText r <<< 8)

/-- What a request drives on the port (20_memory.md R90); fields it does not use are 0. -/
def DispReq.beat : DispReq → DispBeat
  | .clear => ⟨0#2, 0#8, 0#8, 0#4, 0#3, 0#32⟩
  | .setPx x y => ⟨1#2, BitVec.ofNat 8 x, BitVec.ofNat 8 y, 0#4, 0#3, 0#32⟩
  | .text x y sc str =>
    ⟨2#2, BitVec.ofNat 8 x, BitVec.ofNat 8 y, BitVec.ofNat 4 sc, BitVec.ofNat 3 str.length,
      packText str⟩
  | .flush => ⟨3#2, 0#8, 0#8, 0#4, 0#3, 0#32⟩

/-- Index of pixel `(x, y)` in DF (20_memory.md R80). -/
def pixelIndex (c : Config) (x y : Nat) : Nat := y * c.wPx + x

/-- Effect of a request on the picture (20_memory.md R91). The flush itself changes neither DF nor
TXT. -/
def drawRequest (c : Config) (f : Frame) : DispReq → Frame
  | .clear => ⟨memOfList (List.replicate c.pixels 0#1), []⟩
  | .setPx x y => { f with pixels := memWrite f.pixels (pixelIndex c x y) 1#1 }
  | .text x y sc str => { f with texts := f.texts ++ [⟨x, y, sc, str⟩] }
  | .flush => f

/-! ### Labels -/

/-- Decimal digits of `v`, most significant first, at most `fuel` of them. -/
def digitsWith : Nat → Nat → List Nat
  | 0, _ => []
  | fuel + 1, v => if v < 10 then [v] else digitsWith fuel (v / 10) ++ [v % 10]

/-- The string of a label (47_renderer.md R271): the decimal digits without leading zeros, then "k".
Five digits hold every 16-bit value; the codes are ASCII. -/
def labelString (v : BitVec 16) : List Byte :=
  (digitsWith 5 v.toNat).map (fun d => BitVec.ofNat 8 (0x30 + d)) ++ [0x6B#8]

/-- Column of the text request of label `j` (47_renderer.md R273): centred on its tick, clamped into
the bitmap. -/
def labelX (c : Config) (j : Nat) (str : List Byte) : Nat :=
  let wpx := str.length * c.charW * c.textScale
  min (j * c.labelStep - wpx / 2) (c.wPx - wpx)

/-- The text request of label `j` (47_renderer.md R272). -/
def labelRequest (c : Config) (j : Nat) (v : BitVec 16) : DispReq :=
  .text (labelX c j (labelString v)) c.barH c.textScale (labelString v)

/-! ### The request sequence of RENDER (47_renderer.md R261) -/

/-- Horizontal guidelines (R266). -/
def hGuides (c : Config) : List DispReq :=
  ((List.range c.barH).filter (fun y => y % c.gridY = 0)).flatMap (fun y =>
    ((List.range c.wPx).filter (fun x => x % c.dot = 0)).map (fun x => .setPx x y))

/-- Vertical guideline ticks (R267). -/
def vTicks (c : Config) : List DispReq :=
  ((List.range c.wPx).filter (fun x => x % c.gridX = 0)).flatMap (fun x =>
    ((List.range c.barH).filter (fun y => y % c.dot = 0)).map (fun y => .setPx x y))

/-- The bar of column `x` (R265): rows `BAR_H - 1` up to `BAR_H - h`. -/
def barRequests (c : Config) (x : Nat) (h : BitVec 5) : List DispReq :=
  (List.range h.toNat).map (fun t => .setPx x (c.barH - (t + 1)))

/-- The bars, column `x` first. -/
def barsFrom (c : Config) : Nat → List (BitVec 5) → List DispReq
  | _, [] => []
  | x, h :: hs => barRequests c x h ++ barsFrom c (x + 1) hs

/-- Border bars (R268). -/
def borders (c : Config) : List DispReq :=
  (List.range c.barH).map (fun y => .setPx 0 y) ++
    (List.range c.barH).map (fun y => .setPx (c.wPx - 1) y)

/-- The label requests, label `j` first (R272). -/
def labelsFrom (c : Config) : Nat → List (BitVec 16) → List DispReq
  | _, [] => []
  | j, v :: vs => labelRequest c j v :: labelsFrom c (j + 1) vs

/-- All requests of one RENDER in their fixed order (47_renderer.md R261, R269). -/
def renderRequests (c : Config) (heights : List (BitVec 5)) (labels : List (BitVec 16)) :
    List DispReq :=
  [.clear] ++ hGuides c ++ vTicks c ++ barsFrom c 0 heights ++ borders c ++ labelsFrom c 0 labels

/-- The picture after some requests. -/
def drawAll (c : Config) (f : Frame) (reqs : List DispReq) : Frame :=
  reqs.foldl (drawRequest c) f

/-- The stage rule of RENDER (47_renderer.md R261). Handshakes: one per request. A display that falls
silent leaves an incomplete picture with DF_VALID 0. -/
def renderStage (s : State) : RuleResult :=
  if s.colValid then
    match memReadRange s.colH s.cfg.wCols, memReadRange s.lbl s.cfg.nlbl with
    | some heights, some labels =>
      let reqs := renderRequests s.cfg heights labels
      let beats := serve s.env.dispLeft reqs.length
      let sent := reqs.take beats.1
      let picture := drawAll s.cfg ⟨s.df, s.txt⟩ sent
      let s₁ := { s.record (sent.map .disp) with
        dfValid := false
        df := picture.pixels
        txt := picture.texts
        env := { s.env with dispLeft := beats.2 } }
      if beats.1 = reqs.length then .done { s₁ with dfValid := true }
      else .stalled .display s₁
    | _, _ => .noValue .columns
  else .raised .seq s

/-- RENDER (47_renderer.md R261). -/
def execRender (s : State) : Host.Outcome State Fault Refusal :=
  runCommand .render Stage.render.index renderStage s

/-! ### FLUSH -/

/-- The stage rule of FLUSH (47_renderer.md R278): SEQ before any request; the flush request; the
display's answer. `ok = 1`: DEV becomes (DF, TXT). `ok = 0`: DISPFAIL, and DEV is a free value
(20_memory.md R91, notes/assumptions/10.md). Handshakes: the request and the answer. -/
def flushStage (s : State) : RuleResult :=
  if s.dfValid then
    match serve s.env.dispLeft 2 with
    | (0, left) => .stalled .display { s with env := { s.env with dispLeft := left } }
    | (1, left) =>
      .stalled .display { s.record [.disp .flush] with env := { s.env with dispLeft := left } }
    | (_ + 2, left) =>
      let draw := drawOne s.env.flushes Config.freeFlush s.env.drawn
      let s₁ := { s.record [.disp .flush, .flushAnswer draw.1] with
        env := { s.env with dispLeft := left, flushes := draw.2.1, drawn := draw.2.2 } }
      match draw.1 with
      | true => .done { s₁ with dev := some ⟨s.df, s.txt⟩ }
      | false =>
        .raised .dispfail { s₁ with
          dev := Config.freeDev draw.2.2
          env := { s₁.env with drawn := draw.2.2 + 1 } }
  else .raised .seq s

/-- FLUSH (47_renderer.md R278). -/
def execFlush (s : State) : Host.Outcome State Fault Refusal :=
  runCommand .flush Stage.flush.index flushStage s

end Sys2Proof.Machine
end

