-- ==== Sys2Proof/Machine/Operands.lean ====
section
/-! DEFINITION. The operands of LD: the ten address spaces, their index ranges, the CSR map, which
elements hold a value, and the extension of an element to 32 bits (20_memory.md section 1,
10_state.md section 5, 48_load.md). -/

namespace Sys2Proof.Machine

/-- The ten address spaces (20_memory.md R70). -/
inductive Space where
  | csr
  | sb
  | cs
  | binRe
  | binIm
  | colH
  | colBin
  | lbl
  | df
  | freq
deriving DecidableEq, Repr

/-- The space of a space number; 10 and above are reserved (20_memory.md R70). -/
def spaceOf (number : Nat) : Option Space :=
  match number with
  | 0 => some .csr
  | 1 => some .sb
  | 2 => some .cs
  | 3 => some .binRe
  | 4 => some .binIm
  | 5 => some .colH
  | 6 => some .colBin
  | 7 => some .lbl
  | 8 => some .df
  | 9 => some .freq
  | _ => none

/-- Whether an index lies in the index range of its space (48_load.md R293); for CSR, whether the
address is in the table of 10_state.md R40 and not reserved (R58). -/
def indexInRange (c : Config) (sp : Space) (i : Nat) : Bool :=
  match sp with
  | .csr => decide (i < 0x20) && decide (i ≠ 0x0F)
  | .sb | .cs => decide (i < c.n)
  | .binRe | .binIm | .freq => decide (i < c.nb)
  | .colH | .colBin => decide (i < c.wCols)
  | .lbl => decide (i < c.nlbl)
  | .df => decide (i < c.pixels)

/-- Whether an element in range holds a value (48_load.md R294). -/
def holdsValue (s : State) (sp : Space) (i : Nat) : Bool :=
  match sp with
  | .csr | .freq => true
  | .sb => decide (i < s.sbCnt)
  | .cs => decide (i < s.inCnt)
  | .binRe | .binIm => decide (i < s.binCnt)
  | .colH | .colBin | .lbl => s.colValid
  | .df => s.dfValid

/-- A field of `width` bits with its lowest bit at `lo`, in a 32-bit word. -/
def field (v width lo : Nat) : Word := BitVec.ofNat 32 (v % 2 ^ width * 2 ^ lo)

/-- CFG0 (10_state.md R42). -/
def cfg0Word (c : Config) : Word :=
  field c.logN 4 0 ||| field (c.levels - 1) 4 4 ||| field c.agg.toNat 1 8 |||
    field c.gainLive.toNat 1 9 ||| field (c.bw - 1) 5 10 ||| field (c.gainW - 1) 4 16

/-- CFG1 (10_state.md R43). -/
def cfg1Word (c : Config) : Word :=
  field c.wCols 8 0 ||| field c.wPx 8 8 ||| field c.hPx 8 16 ||| field c.barH 8 24

/-- SCALE (10_state.md R45). -/
def scaleWord (c : Config) : Word := field c.scaleMul 16 0 ||| field c.scaleShift 7 16

/-- ZOOM (10_state.md R48): ZOOM_LEVEL, ZSNAP and ZOOM_MAX[ZOOM_LEVEL], all from one read of
ZOOM_LEVEL. -/
def zoomWord (s : State) : Word :=
  field s.zoomLevel.toNat 4 0 ||| field s.zsnap.toNat 4 4 |||
    field (s.cfg.zoomAt s.zoomLevel.toNat) 12 16

/-- The control and status registers (10_state.md R40 to R49), `none` at a reserved address (R58). A
read has no side effect. -/
def csrRead (s : State) (a : Nat) : Option Word :=
  match a with
  | 0x00 => some 0x53415031#32
  | 0x01 => some (cfg0Word s.cfg)
  | 0x02 => some (cfg1Word s.cfg)
  | 0x03 => some (BitVec.ofNat 32 s.cfg.fs)
  | 0x04 => some (scaleWord s.cfg)
  | 0x05 => some s.statusWord
  | 0x06 => some s.fault.word
  | 0x07 => some (zoomWord s)
  | 0x08 => some (BitVec.ofNat 32 s.sbCnt)
  | 0x09 => some (BitVec.ofNat 32 s.inCnt)
  | 0x0A => some (BitVec.ofNat 32 s.binCnt)
  | 0x0B => some (BitVec.ofNat 32 s.sum)
  | 0x0C => some (BitVec.ofNat 32 s.meanFx)
  | 0x0D => some (s.gainLatch.setWidth 32)
  | 0x0E => some s.xfHandle
  | _ => if 0x10 ≤ a ∧ a < 0x20 then some (BitVec.ofNat 32 (s.cfg.zoomAt (a - 0x10))) else none

/-- The element of a space, extended to 32 bits (48_load.md R292): signed elements by sign, unsigned
ones by zero. `none` when the storage lists no element. -/
def spaceRead (s : State) (sp : Space) (i : Nat) : Option Word :=
  match sp with
  | .csr => csrRead s i
  | .sb => (memRead s.sb i).map (fun v => v.setWidth 32)
  | .cs => (memRead s.cs i).map (fun v => BitVec.ofInt 32 v)
  | .binRe => (memRead s.binRe i).map (fun v => BitVec.ofInt 32 v)
  | .binIm => (memRead s.binIm i).map (fun v => BitVec.ofInt 32 v)
  | .colH => (memRead s.colH i).map (fun v => v.setWidth 32)
  | .colBin => (memRead s.colBin i).map (fun v => BitVec.ofNat 32 v)
  | .lbl => (memRead s.lbl i).map (fun v => v.setWidth 32)
  | .df => (memRead s.df i).map (fun v => v.setWidth 32)
  | .freq => some (BitVec.ofNat 32 (freq s.cfg i))

/-- What an LD reads, or the fault it raises, in the order of its checks (48_load.md R291, R295):
reserved space, index out of range, no value. -/
def loadElement (s : State) (space index : Nat) : Except Cause Word :=
  match spaceOf space with
  | none => .error .idx
  | some sp =>
    if indexInRange s.cfg sp index then
      if holdsValue s sp index then
        match spaceRead s sp index with
        | some v => .ok v
        | none => .error .unwr
      else .error .unwr
    else .error .idx

end Sys2Proof.Machine
end

