-- ==== Sys2Proof/Machine/Load.lean ====
section
/-! DEFINITION. The read-out window: LD (48_load.md). -/

namespace Sys2Proof.Machine

/-- LD (48_load.md R291). In MODE IDLE a failed check is a fault with STAGE 7; in MODE HALTED LD is
still executed, and a failed check is answered REFUSED (R296). It writes nothing. -/
def execLd (space index : Nat) (s : State) : Host.Outcome State Fault Refusal :=
  accept s
    (fun s =>
      match loadElement s space index with
      | .ok v => .next (s.respond .ok v)
      | .error c => .next (takeFault c (Instr.ld space index).opcode noStage s))
    (fun s =>
      match loadElement s space index with
      | .ok v => .next (s.respond .ok v)
      | .error _ => refuseCommand s)

end Sys2Proof.Machine
end

