-- ==== Sys2Proof/Machine/Capture.lean ====
section
/-! DEFINITION. The Acquisition Controller: CAPTURE, stage 0 (41_capture.md). -/

namespace Sys2Proof.Machine

/-- The events of accepted samples, the `k`-th from index `k` on (20_memory.md R95). -/
def sampleEvents : Nat → List Byte → List Event
  | _, [] => []
  | k, v :: vs => .capSample k v :: sampleEvents (k + 1) vs

/-- The stage rule of CAPTURE (41_capture.md R161): the new frame invalidates SB and everything
downstream (R165); the drain is requested and acknowledged (R162); the start request; then N sample
beats written to SB in index order (R163). Handshakes: one acknowledge and N beats. An engine that
falls silent leaves the samples it delivered and a waiting sequencer (20_memory.md R87). -/
def captureStage (s : State) : RuleResult :=
  let s₁ := s.clearSb.record [.capDrain]
  match serve s.env.capLeft (1 + s.cfg.n) with
  | (0, left) => .stalled .captureEngine { s₁ with env := { s.env with capLeft := left } }
  | (beats + 1, left) =>
    let draw := drawMany s.env.samples Config.freeSample s.env.drawn beats
    let s₂ := { s₁.record (.capStart s.cfg.n :: sampleEvents 0 draw.1) with
      sb := memOfList draw.1
      sbCnt := beats
      env := { s.env with capLeft := left, samples := draw.2.1, drawn := draw.2.2 } }
    if beats = s.cfg.n then .done s₂ else .stalled .captureEngine s₂

/-- CAPTURE (41_capture.md R161): no precondition, no failure path (R166). -/
def execCapture (s : State) : Host.Outcome State Fault Refusal :=
  runCommand .capture Stage.capture.index captureStage s

end Sys2Proof.Machine
end

