-- ==== Sys2Proof/Machine/DcRemoval.lean ====
section
/-! DEFINITION. The DC-removal Preprocessor: RMDC, stage 1 (42_dc_removal.md). -/

namespace Sys2Proof.Machine

/-- The accumulator over the samples, in index order (42_dc_removal.md R172). It cannot overflow
(R173). -/
def sampleSum (xs : List Byte) : Nat := xs.foldl (fun acc x => acc + x.toNat) 0

/-- The mean divider (42_dc_removal.md R174): `(SUM << FRAC) div N`, Q8.FRAC. -/
def meanOf (c : Config) (sum : Nat) : Nat := (sum * 2 ^ c.frac) / c.n

/-- The subtractor (42_dc_removal.md R175): `(SB[k] << FRAC) - MEAN_FX`, signed. -/
def centre (c : Config) (mean : Nat) (x : Byte) : Int :=
  ((x.toNat * 2 ^ c.frac : Nat) : Int) - (mean : Int)

/-- The stage rule of RMDC (42_dc_removal.md R171). -/
def rmdcStage (s : State) : RuleResult :=
  if s.sbValid then
    match memReadRange s.sb s.cfg.n with
    | none => .noValue .sb
    | some xs =>
      .done { s.clearCs with
        sum := sampleSum xs
        meanFx := meanOf s.cfg (sampleSum xs)
        cs := memOfList (xs.map (centre s.cfg (meanOf s.cfg (sampleSum xs))))
        inCnt := s.cfg.n }
  else .raised .seq s

/-- RMDC (42_dc_removal.md R171). -/
def execRmdc (s : State) : Host.Outcome State Fault Refusal :=
  runCommand .rmdc Stage.rmdc.index rmdcStage s

end Sys2Proof.Machine
end

