-- ==== Sys2Proof/Machine/Transform.lean ====
section
/-! DEFINITION. The transform (FFT) interface wrapper: XFINIT, XFEXEC (stage 2) and XFREL
(43_fft_wrapper.md). -/

namespace Sys2Proof.Machine

/-- The engine's own answer for bin `k`: from the table of fixed answers when the run fixes this input,
else the free value (notes/assumptions/6.md). -/
def engineBin (c : Config) (v : List Int) (k : Nat) : Int × Int :=
  match c.engine.lookup v with
  | some out =>
    match out[k]? with
    | some b => b
    | none => Config.freeBin v k
  | none => Config.freeBin v k

/-- Bin `k` of the transform: 0 for the all-zero input (43_fft_wrapper.md R191 c), else the engine's
answer as its BW-bit ports carry it (20_memory.md R89, R198). -/
def transformBin (c : Config) (v : List Int) (k : Nat) : Int × Int :=
  if v.all (fun x => decide (x = 0)) then (0, 0)
  else (signedBits c.bw (engineBin c v k).1, signedBits c.bw (engineBin c v k).2)

/-- `XF` (43_fft_wrapper.md R190): exactly NB pairs, pair `k` the bin of index `k` (R191 a, b), a
function of the input alone. -/
def transform (c : Config) (v : List Int) : List (Int × Int) :=
  (List.range c.nb).map (transformBin c v)

/-- The rule of XFINIT (43_fft_wrapper.md R186): REINIT when initialised (R188), before any request;
the init request for N, which stays recorded when the engine never answers (10_state.md R54); XFALLOC when the engine answers `ok = 0` (R189), XF_READY and XF_HANDLE then
unchanged; else the handle, as its HANDLE_W-bit port carries it, and XF_READY. -/
def xfinitRule (s : State) : RuleResult :=
  if s.xfReady then .raised .reinit s
  else
    match serve s.env.xfLeft 1 with
    | (0, left) =>
      .stalled .transformEngine
        { s.record [.xfInitRequest s.cfg.n] with env := { s.env with xfLeft := left } }
    | (_ + 1, left) =>
      let draw := drawOne s.env.inits Config.freeInit s.env.drawn
      let handle := BitVec.ofNat 32 (draw.1.2.toNat % 2 ^ s.cfg.handleW)
      let s₁ := { s.record [.xfInit s.cfg.n draw.1.1 handle] with
        env := { s.env with xfLeft := left, inits := draw.2.1, drawn := draw.2.2 } }
      match draw.1.1 with
      | false => .raised .xfalloc s₁
      | true => .done { s₁ with xfHandle := handle, xfReady := true }

/-- The stage rule of XFEXEC (43_fft_wrapper.md R193): NOINIT (R195), then LEN (R194); then the N
elements of CS go out in index order (R196) and NB bins come back and are stored unchanged (R197).
Handshakes: N beats out and NB beats in; the request is recorded with the beats that crossed the port
(10_state.md R54). -/
def xfexecStage (s : State) : RuleResult :=
  if !s.xfReady then .raised .noinit s
  else if !s.csValid then .raised .len s
  else
    match memReadRange s.cs s.cfg.n with
    | none => .noValue .cs
    | some v =>
      let beats := serve s.env.xfLeft (s.cfg.n + s.cfg.nb)
      let got := (transform s.cfg v).take (beats.1 - s.cfg.n)
      let s₁ := { s.clearBins.record [.xfExec s.xfHandle (v.take beats.1) got] with
        binRe := memOfList (got.map Prod.fst)
        binIm := memOfList (got.map Prod.snd)
        binCnt := got.length
        env := { s.env with xfLeft := beats.2 } }
      if beats.1 = s.cfg.n + s.cfg.nb then .done s₁ else .stalled .transformEngine s₁

/-- The rule of XFREL (43_fft_wrapper.md R200): NOINIT when there is no handle (R201); the release
request carrying XF_HANDLE; then, once acknowledged, XF_READY and XF_HANDLE 0. -/
def xfrelRule (s : State) : RuleResult :=
  if !s.xfReady then .raised .noinit s
  else
    let s₁ := s.record [.xfRelease s.xfHandle]
    match serve s.env.xfLeft 1 with
    | (0, left) => .stalled .transformEngine { s₁ with env := { s.env with xfLeft := left } }
    | (_ + 1, left) =>
      .done { s₁ with xfReady := false, xfHandle := 0#32, env := { s.env with xfLeft := left } }

/-- XFINIT (43_fft_wrapper.md R186): not a stage, STAGE 7 when it faults. -/
def execXfinit (s : State) : Host.Outcome State Fault Refusal :=
  runCommand .xfinit noStage xfinitRule s

/-- XFEXEC (43_fft_wrapper.md R193). -/
def execXfexec (s : State) : Host.Outcome State Fault Refusal :=
  runCommand .xfexec Stage.xfexec.index xfexecStage s

/-- XFREL (43_fft_wrapper.md R200): not a stage, STAGE 7 when it faults. -/
def execXfrel (s : State) : Host.Outcome State Fault Refusal :=
  runCommand .xfrel noStage xfrelRule s

end Sys2Proof.Machine
end

