-- ==== Sys2Proof/Machine/Sequencer.lean ====
section
/-! DEFINITION. The frame sequencer: NOP, FRAME, RUN, and one stage step of a frame
(40_sequencer.md). -/

namespace Sys2Proof.Machine

/-- NOP (40_sequencer.md R141): answers OK, in MODE IDLE and in MODE HALTED alike; changes nothing. -/
def execNop (s : State) : Host.Outcome State Fault Refusal :=
  accept s (fun s => .next (s.respond .ok 0#32)) (fun s => .next (s.respond .ok 0#32))

/-- FRAME, line 1 (40_sequencer.md R143): MODE becomes FRAME1 and SEQ 0. Each stage is then a step of
its own (`runStage`), and the last one answers. -/
def execFrame (s : State) : Host.Outcome State Fault Refusal :=
  accept s (fun s => .next (s.startLoop .frame1)) refuseCommand

/-- RUN, line 1 (40_sequencer.md R146): MODE becomes RUN and SEQ 0. -/
def execRun (s : State) : Host.Outcome State Fault Refusal :=
  accept s (fun s => .next (s.startLoop .run)) refuseCommand

/-- The stage rule of stage SEQ (40_sequencer.md R144). -/
def stageRule : Stage → State → RuleResult
  | .capture => captureStage
  | .rmdc => rmdcStage
  | .xfexec => xfexecStage
  | .map => mapStage
  | .render => renderStage
  | .flush => flushStage

/-- The opcode byte a fault records inside FRAME (0x08) and RUN (0x09) (40_sequencer.md R144). -/
def loopOpcode : Mode → BitVec 8
  | .run => Instr.run.opcode
  | .frame1 | .idle | .halted => Instr.frame.opcode

/-- SEQ after a stage has completed (10_state.md R24): one on; after stage 5 it wraps to 0, and a FRAME
then ends with MODE IDLE and its one response, while RUN begins the next frame. -/
def advanceStage (s : State) : State :=
  match s.seq with
  | .flush =>
    match s.mode with
    | .frame1 => (s.startLoop .idle).respond .ok 0#32
    | .idle | .run | .halted => s.startLoop s.mode
  | .capture | .rmdc | .xfexec | .map | .render => { s with seq := s.seq.succ }

/-- One stage step inside FRAME or RUN (40_sequencer.md R143, R146): no response per stage; a fault
records SEQ and ends the command (R147). -/
def runStage (s : State) : Host.Outcome State Fault Refusal :=
  match stageRule s.seq s with
  | .done t => .next (advanceStage t)
  | .raised c t => .next (takeFault c (loopOpcode s.mode) s.seq.index t)
  | .stalled who t => .next (t.waitFor who)
  | .noValue input => .fault (.noValue input)

end Sys2Proof.Machine
end

