-- ==== Sys2Proof/Machine/Dispatch.lean ====
section
/-! DEFINITION. The dispatch of a decoded command to its meaning. -/

namespace Sys2Proof.Machine

def exec (i : Instr) (s : State) : Host.Outcome State Fault Refusal :=
  match i with
  | .nop => Sys2Proof.Machine.execNop s
  | .capture => Sys2Proof.Machine.execCapture s
  | .rmdc => Sys2Proof.Machine.execRmdc s
  | .xfexec => Sys2Proof.Machine.execXfexec s
  | .map => Sys2Proof.Machine.execMap s
  | .render => Sys2Proof.Machine.execRender s
  | .flush => Sys2Proof.Machine.execFlush s
  | .frame => Sys2Proof.Machine.execFrame s
  | .run => Sys2Proof.Machine.execRun s
  | .xfinit => Sys2Proof.Machine.execXfinit s
  | .xfrel => Sys2Proof.Machine.execXfrel s
  | .ld space index => Sys2Proof.Machine.execLd space index s

end Sys2Proof.Machine
end

