-- ==== Sys2Proof/Machine/Params.lean ====
section
/-! DEFINITION. The constraints a parameter record must meet (00_scope.md section 4, R6). -/

namespace Sys2Proof

/-- The record describes an SAPB: every constraint of the parameter table holds. -/
abbrev Config.Valid (c : Config) : Prop :=
  (2 ≤ c.logN ∧ c.logN ≤ 12) ∧
  (1 ≤ c.fs ∧ c.fs < 2 ^ 20) ∧
  (8 ≤ c.bw ∧ c.bw ≤ 32) ∧
  (2 ≤ c.wPx ∧ c.wPx ≤ 255) ∧
  (c.barH + c.charH * c.textScale ≤ c.hPx ∧ c.hPx ≤ 255) ∧
  (1 ≤ c.wCols ∧ c.wCols ≤ c.wPx) ∧
  (1 ≤ c.barH ∧ c.barH ≤ 31) ∧
  (1 ≤ c.levels ∧ c.levels ≤ 16) ∧
  (∀ m ∈ c.zoomMax, 1 ≤ m ∧ m ≤ c.n / 2) ∧
  c.zoomAt 0 = c.n / 2 ∧
  (1 ≤ c.gainW ∧ c.gainW ≤ 16) ∧
  (1 ≤ c.scaleMul ∧ c.scaleMul ≤ 65535) ∧
  c.scaleShift ≤ 127 ∧
  (1 ≤ c.labelStep ∧ c.nlbl ≤ 8) ∧
  1 ≤ c.gridY ∧ 1 ≤ c.gridX ∧ 1 ≤ c.dot ∧
  (1 ≤ c.charW ∧ 4 * c.charW * c.textScale ≤ c.wPx) ∧
  1 ≤ c.charH ∧ 1 ≤ c.textScale ∧
  (1 ≤ c.handleW ∧ c.handleW ≤ 32)

end Sys2Proof
end

