-- ==== Sys2Proof/Machine/Zoom.lean ====
section
/-! DEFINITION. The zoom controller (46_zoom.md): one transition, no command. -/

namespace Sys2Proof.Machine

/-- The zoom level after one trigger event: `(ZOOM_LEVEL + 1) mod LEVELS` (46_zoom.md R247). -/
def zoomNext (c : Config) (level : BitVec 4) : BitVec 4 :=
  BitVec.ofNat 4 ((level.toNat + 1) % c.levels)

/-- One trigger event (46_zoom.md R247): one atomic step of ZOOM_LEVEL, in every MODE (R252); nothing
else is read or written and no response is sent. -/
def zoomStep (s : State) : State :=
  { s.record [.zoomEvent] with zoomLevel := zoomNext s.cfg s.zoomLevel }

end Sys2Proof.Machine
end

