-- ==== Sys2Proof/Machine/Issue.lean ====
section
/-! DEFINITION. One turn of the machine: the sequencer takes a command word or runs a stage, the zoom
controller steps, or the host resets. -/

namespace Sys2Proof.Machine

/-- An illegal command word (30_encoding.md R115, R116, R122): ILLCMD with the word's bits [31:24] and
STAGE 7 in MODE IDLE (60_exceptions.md R302), REFUSED in MODE HALTED. -/
def execIllegal (w : Word) (s : State) : Host.Outcome State Fault Refusal :=
  accept s (fun s => .next (takeFault .illcmd (opField w) noStage s)) refuseCommand

/-- A word is taken from the command port (30_encoding.md R119, R125): decoded, then executed. -/
def takeWord (w : Word) (s : State) : Host.Outcome State Fault Refusal :=
  match decode w with
  | .ok i => exec i s
  | .error _ => execIllegal w s

/-- The sequencer's turn. With `cmd_ready` 1 it takes the word the host presents, or waits for one
(70_reset_and_hazards.md R341); inside FRAME or RUN it runs stage SEQ; when it waits for a silent
collaborator it goes on waiting (60_exceptions.md R323). -/
def sequencerTurn (s : State) : Host.Outcome State Fault Refusal :=
  if s.cmdReady then
    match s.env.cmds with
    | [] => .next s
    | w :: ws => takeWord w (s.withEnv { s.env with cmds := ws })
  else if s.stuck then .next s
  else runStage s

/-- One turn of whoever the schedule names next; when it names nobody, the sequencer's
(20_memory.md R83, 70_reset_and_hazards.md R364, notes/assumptions/3.md). A `word` or `answered` entry
stays at the head until what it waits for has come; a `stage` entry takes no word. -/
def turn (s : State) : Host.Outcome State Fault Refusal :=
  match s.env.sched with
  | [] => sequencerTurn s
  | .sequencer :: r => sequencerTurn (s.withEnv { s.env with sched := r })
  | .stage :: r =>
    if s.cmdReady then .next (s.withEnv { s.env with sched := r })
    else sequencerTurn (s.withEnv { s.env with sched := r })
  | .word :: r =>
    if s.cmdReady then sequencerTurn (s.withEnv { s.env with sched := r }) else sequencerTurn s
  | .answered :: r =>
    if s.cmdReady || s.stuck then .next (s.withEnv { s.env with sched := r }) else sequencerTurn s
  | .zoom :: r => .next (zoomStep (s.withEnv { s.env with sched := r }))
  | .reset :: r => .next (resetStep (s.withEnv { s.env with sched := r }))

/-- The step of an SAPB; a parameter record that describes none is refused (00_scope.md R6). -/
def stepOnce (s : State) : Host.Outcome State Fault Refusal :=
  if s.cfg.Valid then turn s else .refused .badConfig

/-- The schedule with the next turn the sequencer's. -/
def sequencerNext : List Turn → List Turn
  | [] => []
  | .sequencer :: r => .sequencer :: r
  | .stage :: r => .sequencer :: .stage :: r
  | .word :: r => .word :: r
  | .answered :: r => .sequencer :: .answered :: r
  | .zoom :: r => .sequencer :: .zoom :: r
  | .reset :: r => .sequencer :: .reset :: r

/-- The word presented on the command port, ahead of the words that wait there, with the next turn the
sequencer's. -/
def presentWord (s : State) (w : Word) : State :=
  s.withEnv { s.env with cmds := w :: s.env.cmds, sched := sequencerNext s.env.sched }

end Sys2Proof.Machine
end

