-- ==== Sys2Proof/Machine/Step.lean ====
section
/-! DEFINITION. The step of the machine, and the word placed where the step takes its next command. -/

namespace Sys2Proof.Machine

/-- One step: `stepOnce` (Machine/Issue.lean). -/
def step : State → Host.Outcome State Fault Refusal := stepOnce

/-- The state with the word `w` of `nbits` bits presented on the command port, so that the next step
takes it when `cmd_ready` is 1, as it is after reset (notes/assumptions/2.md). -/
def State.withFetchWord (s : State) (nbits w : Nat) : State :=
  presentWord s (BitVec.ofNat 32 (w % 2 ^ nbits))

end Sys2Proof.Machine
end

