-- ==== Sys2Proof/Machine/Script.lean ====
section
/-! DEFINITION. Scripts and pseudo-commands (30_encoding.md section 6): what a line of a script stands
for. A script is the host's whole behaviour and the zoom trigger's events
(70_reset_and_hazards.md R363). -/

namespace Sys2Proof.Machine

/-- The names an LD of space CSR may use (30_encoding.md R123, 10_state.md R40). -/
inductive CsrName where
  | id
  | cfg0
  | cfg1
  | cfg2
  | scale
  | status
  | fault
  | zoom
  | sbCnt
  | inCnt
  | binCnt
  | sum
  | meanFx
  | gainLatch
  | xfHandle
  | zoomTab (l : Nat)
deriving DecidableEq, Repr

/-- The address of a named CSR (10_state.md R40). -/
def CsrName.address : CsrName → Nat
  | .id => 0x00
  | .cfg0 => 0x01
  | .cfg1 => 0x02
  | .cfg2 => 0x03
  | .scale => 0x04
  | .status => 0x05
  | .fault => 0x06
  | .zoom => 0x07
  | .sbCnt => 0x08
  | .inCnt => 0x09
  | .binCnt => 0x0A
  | .sum => 0x0B
  | .meanFx => 0x0C
  | .gainLatch => 0x0D
  | .xfHandle => 0x0E
  | .zoomTab l => 0x10 + l

/-- Where among the steps the event of a directive falls (70_reset_and_hazards.md R364: one placement of
the events). -/
inductive Place where
  /-- at that point of the script (30_encoding.md R123): every command before it has been answered, or
  waits for ever -/
  | afterResponse
  /-- so many stages into the command before it, a FRAME or a RUN, which sends no response to wait for
  (40_sequencer.md R146); at its end when it ends sooner -/
  | afterStages (n : Nat)
deriving DecidableEq, Repr

/-- The turns up to that place. -/
def Place.turns : Place → List Turn
  | .afterResponse => [.answered]
  | .afterStages n => List.replicate n .stage

/-- One line of a script: a command, a pseudo-command of 30_encoding.md R124, or a directive of
R123. -/
inductive ScriptLine where
  | command (i : Instr)
  /-- `LDCSR name` -/
  | ldcsr (name : CsrName)
  /-- `LD DF, (x, y)` -/
  | ldPixel (x y : Nat)
  /-- `PIPE` -/
  | pipe
  /-- `.zoom`, at its place -/
  | zoom (place : Place)
  /-- `.reset`, at its place -/
  | reset (place : Place)
deriving DecidableEq, Repr

/-- The six stage commands in the order of the frame (30_encoding.md R124). -/
def pipeCommands : List Instr := [.capture, .rmdc, .xfexec, .map, .render, .flush]

/-- The commands a line puts on the command port (30_encoding.md R123, R124). -/
def scriptCommands (c : Config) : ScriptLine → List Instr
  | .command i => [i]
  | .ldcsr name => [.ld 0 name.address]
  | .ldPixel x y => [.ld 8 (pixelIndex c x y)]
  | .pipe => pipeCommands
  | .zoom _ | .reset _ => []

/-- The turns of a line. The word of a command is held until it is taken, so a command line needs no
count of the stages before it; no turn of a directive takes a word, so a FRAME or RUN that faults or is
refused sooner leaves no turn that a later line's word could use. -/
def scriptTurns (c : Config) (line : ScriptLine) : List Turn :=
  match line with
  | .zoom place => place.turns ++ [.zoom]
  | .reset place => place.turns ++ [.reset]
  | .command _ | .ldcsr _ | .ldPixel _ _ | .pipe => (scriptCommands c line).map (fun _ => .word)

/-- The machine with a script before it (70_reset_and_hazards.md R363, R364). The commands after a
directive are taken after its event; beyond the last line the sequencer has every turn, so the last
command runs to its end. -/
def withScript (s : State) (lines : List ScriptLine) : State :=
  s.withEnv { s.env with
    cmds := (lines.flatMap (scriptCommands s.cfg)).map encode
    sched := lines.flatMap (scriptTurns s.cfg) }

end Sys2Proof.Machine
end

