-- ==== Sys2Proof/Safety.lean ====
section
/-! DEFINITION. What claims about SAPB speak of: when a command can be taken, when a collaborator
answers, the invariants of the state, and the end of a run. -/

namespace Sys2Proof.Machine

/-- MODE is IDLE and no command is executing: the state in which a taken word is executed
(30_encoding.md R119, R125). -/
def State.idleReady (s : State) : Prop := s.mode = .idle ∧ s.waiting = none

/-- A collaborator answers the next `want` handshakes (20_memory.md R98: it need not). -/
def answers (left : Option Nat) (want : Nat) : Prop := ∀ k, left = some k → want ≤ k

/-- Whether the sequencer has the next turn (notes/assumptions/3.md). -/
def State.sequencerIsNext (s : State) : Prop :=
  s.env.sched = [] ∨ ∃ r, s.env.sched = .sequencer :: r

/-- Whether the sequencer, if `cmd_ready` is 1, takes the presented word in the next step. -/
def State.wordIsNext (s : State) : Prop := s.sequencerIsNext ∨ ∃ r, s.env.sched = .word :: r

/-- The history without the responses (40_sequencer.md R145: FRAME and PIPE differ in them). -/
def withoutResponses (h : List Event) : List Event :=
  h.filter (fun e => match e with
    | .respond _ _ => false
    | _ => true)

/-- The responses sent so far, oldest first. -/
def responses (h : List Event) : List Event :=
  h.filter (fun e => match e with
    | .respond _ _ => true
    | _ => false)

/-! ### The checks of LD -/

/-- The pair names no element: a reserved space, an index beyond the space's last, a reserved CSR
address (48_load.md R293, 20_memory.md R70). -/
def outsideSpaces (c : Config) (space index : Nat) : Prop :=
  10 ≤ space ∨
  (space = 0 ∧ (index = 0x0F ∨ 0x20 ≤ index)) ∨
  ((space = 1 ∨ space = 2) ∧ c.n - 1 < index) ∨
  ((space = 3 ∨ space = 4 ∨ space = 9) ∧ c.n / 2 < index) ∨
  ((space = 5 ∨ space = 6) ∧ c.wCols - 1 < index) ∨
  (space = 7 ∧ c.nlbl - 1 < index) ∨
  (space = 8 ∧ c.wPx * c.hPx - 1 < index)

/-- The element of that pair holds no value (48_load.md R294). -/
def State.elementEmpty (s : State) (space index : Nat) : Prop :=
  (space = 1 ∧ s.sbCnt ≤ index) ∨
  (space = 2 ∧ s.inCnt ≤ index) ∨
  ((space = 3 ∨ space = 4) ∧ s.binCnt ≤ index) ∨
  ((space = 5 ∨ space = 6 ∨ space = 7) ∧ s.colValid = false) ∨
  (space = 8 ∧ s.dfValid = false)

/-! ### Invariants -/

/-- Every space has the canonical form: indices strictly rising. -/
def State.memoriesCanonical (s : State) : Prop :=
  memWf s.sb ∧ memWf s.cs ∧ memWf s.binRe ∧ memWf s.binIm ∧ memWf s.colH ∧ memWf s.colBin ∧
    memWf s.lbl ∧ memWf s.df

/-- Exactly the elements below the count hold a value. -/
def filledTo {α : Type} (m : Mem α) (n : Nat) : Prop := m.map Prod.fst = List.range n

/-- The storage holds a value for exactly the elements that the counters and flags say are written
(10_state.md R26 to R28, R38, R39, R57, 48_load.md R294). -/
def State.buffersFilled (s : State) : Prop :=
  filledTo s.sb s.sbCnt ∧ s.sbCnt ≤ s.cfg.n ∧
  filledTo s.cs s.inCnt ∧ s.inCnt ≤ s.cfg.n ∧
  filledTo s.binRe s.binCnt ∧ filledTo s.binIm s.binCnt ∧ s.binCnt ≤ s.cfg.nb ∧
  filledTo s.colH (if s.colValid then s.cfg.wCols else 0) ∧
  filledTo s.colBin (if s.colValid then s.cfg.wCols else 0) ∧
  filledTo s.lbl s.cfg.nlbl ∧
  (s.dfValid = true → filledTo s.df s.cfg.pixels)

/-- Between commands each counter is 0 or full (48_load.md R294). -/
def State.countersWhole (s : State) : Prop :=
  s.waiting = none →
    (s.sbCnt = 0 ∨ s.sbCnt = s.cfg.n) ∧ (s.inCnt = 0 ∨ s.inCnt = s.cfg.n) ∧
      (s.binCnt = 0 ∨ s.binCnt = s.cfg.nb)

/-- A signed value of `w` bits (00_scope.md section 5). -/
def signedIn (w : Nat) (v : Int) : Prop := -(2 ^ (w - 1) : Int) ≤ v ∧ v < (2 ^ (w - 1) : Int)

/-- The counters lie in their ranges (10_state.md section 3). -/
def State.countersInRange (s : State) : Prop :=
  s.sbCnt ≤ s.cfg.n ∧ s.inCnt ≤ s.cfg.n ∧ s.binCnt ≤ s.cfg.nb

/-- Every other register and every element held as a number, or in more bits than its width, lies in the
range of its width (10_state.md section 3, 20_memory.md R70); ZOOM_LEVEL and ZSNAP are in
`State.zoomInRange`. -/
def State.registersInRange (s : State) : Prop :=
  s.sum < 2 ^ s.cfg.sumW ∧
  s.meanFx < 2 ^ (8 + s.cfg.frac) ∧
  s.gainLatch.toNat < 2 ^ s.cfg.gainW ∧
  s.xfHandle.toNat < 2 ^ s.cfg.handleW ∧
  (∀ p ∈ s.cs, signedIn s.cfg.csW p.2) ∧
  (∀ p ∈ s.binRe, signedIn s.cfg.bw p.2) ∧
  (∀ p ∈ s.binIm, signedIn s.cfg.bw p.2) ∧
  (∀ p ∈ s.colH, p.2.toNat ≤ s.cfg.barH) ∧
  (∀ p ∈ s.colBin, p.2 < s.cfg.n / 2) ∧
  (∀ p ∈ s.lbl, p.2.toNat ≤ 524) ∧
  s.txt.length ≤ s.cfg.nlbl

/-- `0 <= ZOOM_LEVEL <= LEVELS - 1`, and so ZSNAP (46_zoom.md R250). -/
def State.zoomInRange (s : State) : Prop :=
  s.zoomLevel.toNat < s.cfg.levels ∧ s.zsnap.toNat < s.cfg.levels

/-- MODE, SEQ and FAULT agree: SEQ is 0 in IDLE (10_state.md R23), MODE is HALTED exactly when
FAULT.CODE is not 0 and codes 10 to 15 never occur (60_exceptions.md R301), and a halted block waits
for nobody. -/
def State.modeCoherent (s : State) : Prop :=
  (s.mode = .idle → s.seq = .capture) ∧
  (s.mode = .halted ↔ s.fault.code ≠ 0#4) ∧
  s.fault.code.toNat ≤ 9 ∧
  (s.mode = .halted → s.waiting = none)

/-- XF_HANDLE is 0 while XF_READY is 0 (10_state.md R34, R37); GAIN_LATCH stays 0 in fixed mode
(R33). -/
def State.portsCoherent (s : State) : Prop :=
  (s.xfReady = false → s.xfHandle = 0#32) ∧ (s.cfg.gainLive = false → s.gainLatch = 0#16)

/-- Inside FRAME and RUN the stage that runs next has its input valid (40_sequencer.md R147). -/
def State.loopReady (s : State) : Prop :=
  (s.mode = .frame1 ∨ s.mode = .run) → s.waiting = none →
    match s.seq with
    | .capture => True
    | .rmdc => s.sbValid = true
    | .xfexec => s.csValid = true
    | .map => s.binsValid = true
    | .render => s.colValid = true
    | .flush => s.dfValid = true

/-- While the columns are valid, bin indices and labels are those of the zoom level ZSNAP holds
(10_state.md R38, 45_bin_to_pixel.md R226). -/
def State.columnsOfZsnap (s : State) : Prop :=
  s.colValid = true →
    s.colBin = memOfList (columnBins s.cfg (s.cfg.zoomAt s.zsnap.toNat)) ∧
    s.lbl = memOfList (labelValues s.cfg (s.cfg.zoomAt s.zsnap.toNat))

/-- All invariants together. -/
def State.Inv (s : State) : Prop :=
  s.cfg.Valid ∧ s.buffersFilled ∧ s.countersWhole ∧ s.registersInRange ∧ s.zoomInRange ∧
    s.modeCoherent ∧ s.portsCoherent ∧ s.loopReady

/-! ### Several steps -/

/-- `n` steps, one after the other. -/
def stepN : Nat → State → Host.Outcome State Fault Refusal
  | 0, s => .next s
  | n + 1, s =>
    match step s with
    | .next t => stepN n t
    | .fault f => .fault f
    | .refused r => .refused r

/-- Sequencer turns, each after the given number of zoom events (40_sequencer.md R145: between two
steps of the sequencer the zoom controller may take any number of steps). -/
def turnsAfterZooms (zooms : List Nat) : List Turn :=
  zooms.flatMap (fun z => List.replicate z Turn.zoom ++ [.sequencer])

/-- The machine with these words on the command port and these turns to come. -/
def State.given (s : State) (words : List Word) (turns : List Turn) : State :=
  s.withEnv { s.env with cmds := words, sched := turns }

/-- Two states that agree in all a FRAME and a PIPE may not differ in (40_sequencer.md R145): they may
differ in MODE and SEQ, in FAULT.OP, in the responses, and in the words that still wait. -/
def agreeAfterFrame (u v : State) : Prop :=
  v = { u with
    mode := v.mode, seq := v.seq, fault := v.fault, history := v.history
    env := { u.env with cmds := v.env.cmds } } ∧
  v.fault.code = u.fault.code ∧ v.fault.stage = u.fault.stage ∧
  withoutResponses v.history = withoutResponses u.history ∧
  (u.waiting = none → v.mode = u.mode)

/-! ### The end of a run (70_reset_and_hazards.md R364) -/

/-- Every line of the script is consumed, the response of the last command line has been sent, and MODE is
IDLE or HALTED. R364 leaves open whether a run has ended when its last command, a FRAME or a command that
waited, was abandoned by a `.reset` and so never answered (it settles RUN alone); that such a run counts as
ended is the model's choice (notes/assumptions/22.md). -/
def State.ended (s : State) : Prop :=
  s.env.sched = [] ∧ s.env.cmds = [] ∧ s.waiting = none ∧ (s.mode = .idle ∨ s.mode = .halted)

/-- A good end: MODE IDLE and FAULT.CODE 0. -/
def State.goodEnd (s : State) : Prop := s.ended ∧ s.mode = .idle ∧ s.fault.code = 0#4

/-- A faulted end: MODE HALTED, FAULT.CODE not 0. -/
def State.faultedEnd (s : State) : Prop := s.ended ∧ s.mode = .halted ∧ s.fault.code ≠ 0#4

end Sys2Proof.Machine
end

