-- ==== Sys2Proof/Certificates/Slice0/Obligations.lean ====
section
/-! DEFINITION. The statements for the provers: what the numbered rules of spec/ say the commands and
the machine do. Every statement is about `exec`, `step` or a named function of the model. -/

open Sys2Proof Sys2Proof.Machine

/-! ## Encoding -/

/-- R113, R123, R291: the words the spec writes out decode to the commands it writes them for. -/
def Obligations.DecodeSampleWords : Prop :=
  decode 0x00000000#32 = .ok .nop ∧ decode 0x01000000#32 = .ok .capture ∧
  decode 0x02000000#32 = .ok .rmdc ∧ decode 0x03000000#32 = .ok .xfexec ∧
  decode 0x04000000#32 = .ok .map ∧ decode 0x05000000#32 = .ok .render ∧
  decode 0x06000000#32 = .ok .flush ∧ decode 0x08000000#32 = .ok .frame ∧
  decode 0x09000000#32 = .ok .run ∧ decode 0x10000000#32 = .ok .xfinit ∧
  decode 0x11000000#32 = .ok .xfrel ∧ decode 0x20300005#32 = .ok (.ld 3 5) ∧
  decode 0x20000007#32 = .ok (.ld 0 7) ∧ decode 0x20800013#32 = .ok (.ld 8 19)

/-- R111, R112: the decoder reads back every well-formed command from its encoding. -/
def Obligations.DecodeOfEncode : Prop :=
  ∀ i : Instr, i.wellFormed = true → decode (encode i) = .ok i

/-- R111, R112: a word that decodes is the encoding of what it decodes to, and that is well formed. -/
def Obligations.EncodeOfDecode : Prop :=
  ∀ (w : Word) (i : Instr), decode w = .ok i → encode i = w ∧ i.wellFormed = true

/-- R113: the match and mask of every row. -/
def Obligations.MatchAndMask : Prop :=
  ∀ w : Word,
    (decode w = .ok .nop ↔ w &&& 0xFFFFFFFF#32 = 0x00#32 <<< 24) ∧
    (decode w = .ok .capture ↔ w &&& 0xFFFFFFFF#32 = 0x01#32 <<< 24) ∧
    (decode w = .ok .rmdc ↔ w &&& 0xFFFFFFFF#32 = 0x02#32 <<< 24) ∧
    (decode w = .ok .xfexec ↔ w &&& 0xFFFFFFFF#32 = 0x03#32 <<< 24) ∧
    (decode w = .ok .map ↔ w &&& 0xFFFFFFFF#32 = 0x04#32 <<< 24) ∧
    (decode w = .ok .render ↔ w &&& 0xFFFFFFFF#32 = 0x05#32 <<< 24) ∧
    (decode w = .ok .flush ↔ w &&& 0xFFFFFFFF#32 = 0x06#32 <<< 24) ∧
    (decode w = .ok .frame ↔ w &&& 0xFFFFFFFF#32 = 0x08#32 <<< 24) ∧
    (decode w = .ok .run ↔ w &&& 0xFFFFFFFF#32 = 0x09#32 <<< 24) ∧
    (decode w = .ok .xfinit ↔ w &&& 0xFFFFFFFF#32 = 0x10#32 <<< 24) ∧
    (decode w = .ok .xfrel ↔ w &&& 0xFFFFFFFF#32 = 0x11#32 <<< 24) ∧
    ((∃ space index, decode w = .ok (.ld space index)) ↔ w &&& 0xFF0F0000#32 = 0x20000000#32)

/-- R115, R302: in IDLE a word with a reserved opcode byte, or with an opcode byte of the table and a
`zero` field that is not 0, is the fault ILLCMD; FAULT.OP is the word's bits [31:24]. -/
def Obligations.IllegalWordFaults : Prop :=
  ∀ (s : State) (w : Word), s.idleReady →
    (opField w ∉ [0x00#8, 0x01#8, 0x02#8, 0x03#8, 0x04#8, 0x05#8, 0x06#8, 0x08#8, 0x09#8, 0x10#8,
        0x11#8, 0x20#8] ∨
      (opField w = 0x20#8 ∧ w.extractLsb' 16 4 ≠ 0#4) ∨
      (opField w ∈ [0x00#8, 0x01#8, 0x02#8, 0x03#8, 0x04#8, 0x05#8, 0x06#8, 0x08#8, 0x09#8, 0x10#8,
        0x11#8] ∧ w.extractLsb' 0 24 ≠ 0#24)) →
    takeWord w s = .next { s with
      mode := .halted
      fault := ⟨1#4, w.extractLsb' 24 8, 7#3⟩
      history := s.history ++
        [.respond .fault (0#17 ++ 7#3 ++ w.extractLsb' 24 8 ++ 1#4)] }

/-! ## The step -/

/-- R119, R125: with `cmd_ready` 1, a step in which the sequencer is next takes the presented word, legal
or illegal, on the state with that turn and that word taken; when the word decodes, the step is `exec`
of the command it decodes to. -/
def Obligations.StepRunsDecodedCommand : Prop :=
  ∀ (s : State) (w : Word) (ws : List Word), s.cfg.Valid → s.wordIsNext → s.cmdReady = true →
    s.env.cmds = w :: ws →
    step s = takeWord w (s.given ws s.env.sched.tail) ∧
    ∀ i : Instr, decode w = .ok i → step s = exec i (s.given ws s.env.sched.tail)

/-- R83, R340, R341, R323, R143: a step when no word is taken: a zoom event, a reset, a wait for a
word, a wait on a silent collaborator, a stage of a frame. The last three clauses are the model's turns
that hold a word until it is taken, wait for an answer, and take no word (notes/assumptions/3.md). -/
def Obligations.StepOfOtherTurns : Prop :=
  ∀ s : State, s.cfg.Valid →
    (∀ r, s.env.sched = .zoom :: r → step s = .next (zoomStep (s.given s.env.cmds r))) ∧
    (∀ r, s.env.sched = .reset :: r → step s = .next (resetStep (s.given s.env.cmds r))) ∧
    (s.wordIsNext → s.cmdReady = true → s.env.cmds = [] →
      step s = .next (s.given [] s.env.sched.tail)) ∧
    (s.sequencerIsNext → s.waiting.isSome = true → s.mode ≠ .halted →
      step s = .next (s.given s.env.cmds s.env.sched.tail)) ∧
    (s.sequencerIsNext → s.waiting = none → s.mode = .frame1 ∨ s.mode = .run →
      step s = runStage (s.given s.env.cmds s.env.sched.tail)) ∧
    (∀ r, s.env.sched = .word :: r → s.cmdReady = false →
      step s = if s.waiting.isSome then .next s else runStage s) ∧
    (∀ r, s.env.sched = .answered :: r →
      (s.cmdReady = true ∨ s.waiting.isSome = true → step s = .next (s.given s.env.cmds r)) ∧
      (s.waiting = none → s.mode = .frame1 ∨ s.mode = .run → step s = runStage s)) ∧
    (∀ r, s.env.sched = .stage :: r →
      (s.cmdReady = true ∨ s.waiting.isSome = true → step s = .next (s.given s.env.cmds r)) ∧
      (s.waiting = none → s.mode = .frame1 ∨ s.mode = .run →
        step s = runStage (s.given s.env.cmds r)))

/-! ## Reset -/

/-- R56: the reset value of every register, flag and pair of display state. That no element of a buffer
holds a value then (R57), and that the history starts empty, is not stated here. -/
def Obligations.ResetValues : Prop :=
  ∀ c : Config,
    (State.resetOf c).mode.code = 0#2 ∧ (State.resetOf c).seq.index = 0#3 ∧
    (State.resetOf c).sbCnt = 0 ∧ (State.resetOf c).inCnt = 0 ∧ (State.resetOf c).binCnt = 0 ∧
    (State.resetOf c).sum = 0 ∧ (State.resetOf c).meanFx = 0 ∧
    (State.resetOf c).zoomLevel = 0#4 ∧ (State.resetOf c).zsnap = 0#4 ∧
    (State.resetOf c).gainLatch = 0#16 ∧ (State.resetOf c).xfHandle = 0#32 ∧
    (∀ j, j < c.nlbl → memRead (State.resetOf c).lbl j = some 0#16) ∧
    (State.resetOf c).fault = ⟨0#4, 0#8, 0#3⟩ ∧ (State.resetOf c).xfReady = false ∧
    (State.resetOf c).colValid = false ∧ (State.resetOf c).dfValid = false ∧
    (State.resetOf c).dev = none ∧
    (∀ s : State, s.cfg = c → (∀ a, a ∈ [0x00, 0x01, 0x02, 0x03, 0x04] ∨ (0x10 ≤ a ∧ a < 0x20) →
      csrRead (State.resetOf c) a = csrRead s a)) ∧
    (∀ i, spaceRead (State.resetOf c) .freq i = some (BitVec.ofNat 32 (c.fs * i)))

/-- R340, R343, R344: a reset, whatever SAPB was doing, leaves every register and flag at its reset value
and every buffer invalid, sends no response and no request, and finds SAPB in MODE IDLE with `cmd_ready` 1. The
parameter record, the history, the words that wait and the draws to come are not state of SAPB: that they go
on is the model's choice (notes/assumptions/11.md, 12.md). R56 and R341 leave the contents of DF and TXT
after a reset unspecified: that DF lists no pixel and TXT is empty is the model's choice
(notes/assumptions/8.md). -/
def Obligations.ResetRestoresEverything : Prop :=
  ∀ (s : State) (r : List Turn), s.cfg.Valid → s.env.sched = .reset :: r →
    ∃ t, step s = .next t ∧ t.cmdReady = true ∧
      t = { State.resetOf s.cfg with history := s.history, env := t.env } ∧
      t.env.cmds = s.env.cmds ∧ t.env.sched = r ∧ t.env.samples = s.env.samples ∧
      t.env.gains = s.env.gains ∧ t.env.inits = s.env.inits ∧ t.env.flushes = s.env.flushes

/-! ## NOP, HALTED -/

/-- R141: NOP, the all-zero word, answers (OK, 0) in MODE IDLE and in MODE HALTED and changes
nothing. -/
def Obligations.NopAnswersOk : Prop :=
  decode 0x00000000#32 = .ok .nop ∧ ∀ s : State, s.idleReady ∨ s.mode = .halted →
    exec .nop s = .next { s with history := s.history ++ [.respond .ok 0#32] }

/-- R122: in MODE HALTED every word is taken and answered; NOP answers OK; every word but NOP and LD,
legal or illegal, changes no state and is answered REFUSED with FAULT; no fault is raised and FAULT
stays. -/
def Obligations.HaltedAnswersEveryWord : Prop :=
  ∀ (s : State) (w : Word), s.mode = .halted →
    (∃ status data, status ≠ .fault ∧
      takeWord w s = .next { s with history := s.history ++ [.respond status data] }) ∧
    (decode w = .ok .nop →
      takeWord w s = .next { s with history := s.history ++ [.respond .ok 0#32] }) ∧
    (decode w ≠ .ok .nop → (∀ space index, decode w ≠ .ok (.ld space index)) →
      takeWord w s = .next { s with
        history := s.history ++ [.respond .refused (0#17 ++ s.fault.stage ++ s.fault.op ++
          s.fault.code)] })

/-- R319, R36: no step but a reset leaves MODE HALTED or changes FAULT there. -/
def Obligations.OnlyResetLeavesHalted : Prop :=
  ∀ s t : State, s.mode = .halted → s.env.sched.head? ≠ some .reset → step s = .next t →
    t.mode = .halted ∧ t.fault = s.fault

/-! ## The stage commands -/

/-- R161, R163, R165: CAPTURE fills SB with the N bytes the engine delivers, in order, invalidates
everything downstream of SB, asks for the drain before the start, and touches nothing else. -/
def Obligations.CaptureFillsBuffer : Prop :=
  ∀ s : State, s.idleReady → answers s.env.capLeft (1 + s.cfg.n) →
    ∃ (t : State) (vals : List Byte), exec .capture s = .next t ∧ vals.length = s.cfg.n ∧
      (∀ k v, k < s.cfg.n → s.env.samples[k]? = some v → vals[k]? = some v) ∧
      (∀ k, memRead t.sb k = vals[k]?) ∧
      t = { s with
        sb := t.sb
        sbCnt := s.cfg.n
        cs := []
        inCnt := 0
        binRe := []
        binIm := []
        binCnt := 0
        colH := []
        colBin := []
        colValid := false
        history := s.history ++ ([.capDrain, .capStart s.cfg.n] ++ sampleEvents 0 vals ++
          [.respond .ok 0#32])
        env := { s.env with
          capLeft := s.env.capLeft.map (fun k => k - (1 + s.cfg.n))
          samples := s.env.samples.drop s.cfg.n
          drawn := t.env.drawn } }

/-- R171, R172, R175: RMDC sums the samples, and leaves `N * SB[k] - SUM` in CS; MEAN_FX is SUM
(R174); it invalidates the bins and the columns and touches nothing else. -/
def Obligations.RmdcCentresSamples : Prop :=
  ∀ (s : State) (xs : List Byte), s.idleReady → s.sbCnt = s.cfg.n → xs.length = s.cfg.n →
    (∀ k, k < s.cfg.n → memRead s.sb k = xs[k]?) →
    ∃ t : State, exec .rmdc s = .next t ∧
      (∀ k, memRead t.cs k = xs[k]?.map (fun x =>
        (s.cfg.n : Int) * (x.toNat : Int) - ((xs.map BitVec.toNat).sum : Int))) ∧
      t = { s with
        sum := (xs.map BitVec.toNat).sum
        meanFx := (xs.map BitVec.toNat).sum
        cs := t.cs
        inCnt := s.cfg.n
        binRe := []
        binIm := []
        binCnt := 0
        colH := []
        colBin := []
        colValid := false
        history := s.history ++ [.respond .ok 0#32] }

/-- R173, R174: the accumulator cannot overflow and the mean divider is exact: for N samples SUM is at
most `255 * N`, which its SUM_W bits hold; the division has remainder 0, and MEAN_FX is SUM and fits
`8 + FRAC` bits. With N 4096 the sum is at most 1044480 and SUM has 20 bits. -/
def Obligations.AccumulatorAndDividerExact : Prop :=
  ∀ (c : Config) (xs : List Byte), xs.length = c.n →
    sampleSum xs ≤ 255 * c.n ∧ 255 * c.n < 2 ^ c.sumW ∧
    (sampleSum xs * 2 ^ c.frac) % c.n = 0 ∧ meanOf c (sampleSum xs) = sampleSum xs ∧
    meanOf c (sampleSum xs) < 2 ^ (8 + c.frac) ∧ meanOf c (sampleSum xs) ≤ 255 * 2 ^ c.frac ∧
    (c.logN = 12 → sampleSum xs ≤ 1044480 ∧ c.sumW = 20)

/-- R177, R176, R178: after RMDC the elements of CS sum to 0, and each lies in
`-255 * (N - 1) .. 255 * (N - 1)`, which CS_W bits hold; N identical samples leave every element 0.
Both bounds are reached: by one sample 255 and the rest 0, and by one sample 0 and the rest 255. -/
def Obligations.CentredSumZeroAndRange : Prop :=
  (∀ (s : State) (xs : List Byte), s.idleReady → s.cfg.Valid → s.sbCnt = s.cfg.n →
    xs.length = s.cfg.n → (∀ k, k < s.cfg.n → memRead s.sb k = xs[k]?) →
    ∃ t : State, exec .rmdc s = .next t ∧ (t.cs.map Prod.snd).sum = 0 ∧
      (∀ k v, memRead t.cs k = some v →
        -(255 * ((s.cfg.n : Int) - 1)) ≤ v ∧ v ≤ 255 * ((s.cfg.n : Int) - 1) ∧
          signedIn s.cfg.csW v) ∧
      (∀ x : Byte, xs = List.replicate s.cfg.n x →
        t.sum = s.cfg.n * x.toNat ∧ t.meanFx = s.cfg.n * x.toNat ∧
          ∀ k, k < s.cfg.n → memRead t.cs k = some 0)) ∧
  ∀ c : Config,
    centre c (meanOf c (sampleSum (255#8 :: List.replicate (c.n - 1) 0#8))) 255#8 =
      255 * ((c.n : Int) - 1) ∧
    centre c (meanOf c (sampleSum (0#8 :: List.replicate (c.n - 1) 255#8))) 0#8 =
      -(255 * ((c.n : Int) - 1))

/-- R193, R197, R190, R89: XFEXEC sends CS to the engine under XF_HANDLE and stores the NB pairs of XF,
unchanged, pair k at index k; each part is a BW-bit number; the all-zero input gives zero bins (R191
c); the columns become invalid, and nothing else is touched. -/
def Obligations.XfexecStoresBins : Prop :=
  ∀ (s : State) (v : List Int), s.idleReady → s.cfg.Valid → s.xfReady = true →
    s.inCnt = s.cfg.n → v.length = s.cfg.n → (∀ k, k < s.cfg.n → memRead s.cs k = v[k]?) →
    answers s.env.xfLeft (s.cfg.n + s.cfg.nb) →
    ∃ t : State, exec .xfexec s = .next t ∧ (transform s.cfg v).length = s.cfg.nb ∧
      (∀ k, memRead t.binRe k = (transform s.cfg v)[k]?.map Prod.fst) ∧
      (∀ k, memRead t.binIm k = (transform s.cfg v)[k]?.map Prod.snd) ∧
      (∀ b ∈ transform s.cfg v, signedIn s.cfg.bw b.1 ∧ signedIn s.cfg.bw b.2) ∧
      ((∀ x ∈ v, x = 0) → ∀ k, k < s.cfg.nb →
        memRead t.binRe k = some 0 ∧ memRead t.binIm k = some 0) ∧
      t = { s with
        binRe := t.binRe
        binIm := t.binIm
        binCnt := s.cfg.nb
        colH := []
        colBin := []
        colValid := false
        history := s.history ++ [.xfExec s.xfHandle v (transform s.cfg v), .respond .ok 0#32]
        env := { s.env with
          xfLeft := s.env.xfLeft.map (fun k => k - (s.cfg.n + s.cfg.nb)) } }

/-- R225 to R228, R231, R233, R211, R213, R214, R216: MAP on valid bins, at every zoom level and every
gain reading `g` (R92: the next one on the tape if it lists one, else a free draw of GAIN_W bits):
ZSNAP and (live mode) GAIN_LATCH are taken once; every column holds its bin index and its height,
every label its kilohertz value; COL_VALID is 1, and nothing else is touched. -/
def Obligations.MapComputesColumns : Prop :=
  ∀ (s : State) (re im : Nat → Int),
    s.idleReady → s.cfg.Valid → s.zoomLevel.toNat < s.cfg.levels → s.binCnt = s.cfg.nb →
    (∀ k, k < s.cfg.nb → memRead s.binRe k = some (re k) ∧ memRead s.binIm k = some (im k)) →
    ∃ (t : State) (g : BitVec 16), exec .map s = .next t ∧ g.toNat < 2 ^ s.cfg.gainW ∧
      (∀ v, s.cfg.gainLive = true → s.env.gains.head? = some v → v.toNat < 2 ^ s.cfg.gainW →
        g = v) ∧
      (∀ x, x < s.cfg.wCols →
        memRead t.colBin x = some (s.cfg.zoomAt s.zoomLevel.toNat * x / s.cfg.wCols) ∧
        ∀ i, i = s.cfg.zoomAt s.zoomLevel.toNat * x / s.cfg.wCols →
          ∃ h : BitVec 5, memRead t.colH x = some h ∧
            h.toNat = min
              ((re i * re i + im i * im i + (if s.cfg.agg then
                  re (i + 1) * re (i + 1) + im (i + 1) * im (i + 1) else 0)).toNat *
                s.cfg.scaleMul /
                (2 ^ s.cfg.scaleShift * (if s.cfg.gainLive then max g.toNat 1 else 1)))
              s.cfg.barH) ∧
      (∀ j, j < s.cfg.nlbl → ∃ l : BitVec 16, memRead t.lbl j = some l ∧
        l.toNat = (2 * (s.cfg.fs *
            (s.cfg.zoomAt s.zoomLevel.toNat * (j * s.cfg.labelStep) / s.cfg.wCols)) +
          1000 * s.cfg.n) / (2000 * s.cfg.n)) ∧
      t = { s with
        zsnap := s.zoomLevel
        gainLatch := if s.cfg.gainLive then g else s.gainLatch
        colBin := t.colBin
        colH := t.colH
        lbl := t.lbl
        colValid := true
        history := s.history ++ (if s.cfg.gainLive then [.gainSample g] else []) ++
          [.respond .ok 0#32]
        env := if s.cfg.gainLive then
            { s.env with gains := s.env.gains.tail, drawn := t.env.drawn }
          else s.env }

/-- R229, R230: the bin indices of a zoom level rise with the column, from bin 0; every one is at most
`M - 1`, so `i + 1` is a bin index; `M - 1` is selected by some column exactly when `M <= W_COLS`; with
the defaults the last column of level 0 selects bin 507, the Nyquist bin is never used by profile A
or B, and in profile T it is. -/
def Obligations.BinIndexRange : Prop :=
  (∀ (c : Config) (m x : Nat), c.Valid → m ∈ c.zoomMax → x < c.wCols →
    binIndex c m x ≤ m - 1 ∧ m - 1 ≤ c.n / 2 - 1 ∧ binIndex c m x + 1 < c.nb) ∧
  (∀ (c : Config) (m : Nat), c.Valid → m ∈ c.zoomMax →
    ((∃ x, x < c.wCols ∧ binIndex c m x = m - 1) ↔ m ≤ c.wCols) ∧
    binIndex c m 0 = 0 ∧ ∀ x y, x ≤ y → binIndex c m x ≤ binIndex c m y) ∧
  binIndex Config.profileB 512 126 = 507 ∧
  (∀ m x, m ∈ Config.profileB.zoomMax → x < 127 → binIndex Config.profileB m x + 1 < 512) ∧
  (∀ x, x < 127 → binIndex Config.profileA 256 x < 256) ∧
  binIndex Config.profileT 2 6 + 1 = Config.profileT.n / 2

/-- R212: the widths of the magnitude unit: an energy fits `2*BW` bits, the sum of two fits EW bits,
the product with SCALE_MUL fits `EW + 16` bits. -/
def Obligations.EnergyWidths : Prop :=
  ∀ (c : Config) (re im re' im' : Int), c.Valid → signedIn c.bw re → signedIn c.bw im →
    signedIn c.bw re' → signedIn c.bw im' →
    (re * re).toNat ≤ 2 ^ (2 * c.bw - 2) ∧
    energyOf re im ≤ 2 ^ (2 * c.bw - 1) ∧ energyOf re im < 2 ^ (2 * c.bw) ∧
    energyOf re im + energyOf re' im' ≤ 2 ^ (2 * c.bw) ∧
    energyOf re im + energyOf re' im' < 2 ^ c.ew ∧
    (energyOf re im + energyOf re' im') * c.scaleMul < 2 ^ (c.ew + 16)

/-- R214, R216, R213: SCALE is the floor of `E * SCALE_MUL / (2^SCALE_SHIFT * DIVISOR)`; HEIGHT lies in
`0 .. BAR_H` and fits 5 bits; DIVISOR is 1 in fixed mode and the reading with a minimum of 1 in live mode,
so at least 1, and the readings 0 and 1 give the same heights; the spec's own examples. -/
def Obligations.HeightIsClampedFloor : Prop :=
  (∀ (c : Config) (g : BitVec 16) (e q : Nat), c.Valid →
    (scale c g e = q ↔
      q * (2 ^ c.scaleShift * divisor c g) ≤ e * c.scaleMul ∧
        e * c.scaleMul < (q + 1) * (2 ^ c.scaleShift * divisor c g)) ∧
    divisor c g = (if c.gainLive then max g.toNat 1 else 1) ∧
    1 ≤ divisor c g ∧ height c g e = min (scale c g e) c.barH ∧ height c g e ≤ c.barH ∧
    (BitVec.ofNat 5 (height c g e)).toNat = height c g e ∧
    height c 0#16 e = height c 1#16 e) ∧
  scale Config.profileT 0#16 1032256 = 3 ∧ scale Config.profileTL 5#16 256 = 3 ∧
  scale Config.profileTL 0#16 256 = 16 ∧ height Config.profileT 0#16 (2 ^ 32) = 4

/-- R217: at one divisor a larger energy never gives a smaller height; and of two MAPs of the same bins
at the same zoom level in live mode, the one that took the larger gain reading shows no larger
height in any column. -/
def Obligations.HeightMonotone : Prop :=
  (∀ (c : Config) (g : BitVec 16) (e e' : Nat), e ≤ e' → height c g e ≤ height c g e') ∧
  ∀ s₁ s₂ t₁ t₂ : State, s₁.idleReady → s₂.idleReady → s₁.cfg.Valid → s₁.cfg = s₂.cfg →
    s₁.cfg.gainLive = true → s₁.zoomLevel = s₂.zoomLevel → s₁.binCnt = s₁.cfg.nb →
    s₂.binCnt = s₂.cfg.nb → s₁.binRe = s₂.binRe → s₁.binIm = s₂.binIm →
    exec .map s₁ = .next t₁ → exec .map s₂ = .next t₂ →
    t₁.gainLatch.toNat ≤ t₂.gainLatch.toNat →
    ∀ x h₁ h₂, memRead t₁.colH x = some h₁ → memRead t₂.colH x = some h₂ → h₂.toNat ≤ h₁.toNat

/-- R218: with all bins zero every column height is 0, at every parameter record, zoom level and gain
reading. -/
def Obligations.ZeroBinsGiveZeroHeights : Prop :=
  ∀ s : State, s.idleReady → s.cfg.Valid → s.zoomLevel.toNat < s.cfg.levels →
    s.binCnt = s.cfg.nb →
    (∀ k, k < s.cfg.nb → memRead s.binRe k = some 0 ∧ memRead s.binIm k = some 0) →
    ∃ t : State, exec .map s = .next t ∧ ∀ x, x < s.cfg.wCols → memRead t.colH x = some 0#5

/-- R233: a label value is the frequency `FS * i / N` hertz in kilohertz rounded to the nearest
integer, a half up; it is at most 524 for every bin; the spec's examples. -/
def Obligations.LabelRoundsToNearest : Prop :=
  (∀ (c : Config) (i q : Nat), c.Valid →
    (khz c i = q ↔
      2000 * c.n * q ≤ 2 * (c.fs * i) + 1000 * c.n ∧
        2 * (c.fs * i) + 1000 * c.n < 2000 * c.n * (q + 1)) ∧
    (i ≤ c.n / 2 → khz c i ≤ 524)) ∧
  khz Config.profileB 254 = 12 ∧ khz Config.profileB 256 = 13 ∧ khz Config.profileB 0 = 0 ∧
  (labelValues Config.profileB 512).map BitVec.toNat = [0, 6, 13, 19] ∧
  (labelValues Config.profileB 64).map BitVec.toNat = [0, 1, 2, 2]

/-- R236, R219, R92: two MAPs at the same zoom level give the same bin indices and labels, whatever the
bins and the gain; with the same bins and the same gain taken, the same heights. -/
def Obligations.FrequencyMappingIgnoresGain : Prop :=
  ∀ s₁ s₂ t₁ t₂ : State, s₁.idleReady → s₂.idleReady → s₁.cfg = s₂.cfg →
    s₁.zoomLevel = s₂.zoomLevel → s₁.binCnt = s₁.cfg.nb → s₂.binCnt = s₂.cfg.nb →
    exec .map s₁ = .next t₁ → exec .map s₂ = .next t₂ →
    t₁.colBin = t₂.colBin ∧ t₁.lbl = t₂.lbl ∧
    (s₁.binRe = s₂.binRe → s₁.binIm = s₂.binIm → t₁.gainLatch = t₂.gainLatch →
      t₁.colH = t₂.colH)

/-- R270: the rendered bitmap in closed form. -/
def Obligations.RenderedBitmap : Prop :=
  ∀ (s : State) (h : Nat → BitVec 5) (l : Nat → BitVec 16),
    s.idleReady → s.cfg.Valid → s.colValid = true →
    (∀ x, x < s.cfg.wCols → memRead s.colH x = some (h x) ∧ (h x).toNat ≤ s.cfg.barH) →
    (∀ j, j < s.cfg.nlbl → memRead s.lbl j = some (l j)) →
    answers s.env.dispLeft (renderRequests s.cfg ((List.range s.cfg.wCols).map h)
      ((List.range s.cfg.nlbl).map l)).length →
    ∃ t : State, exec .render s = .next t ∧ t.dfValid = true ∧
      ∀ x y, x < s.cfg.wPx → y < s.cfg.hPx →
        memRead t.df (y * s.cfg.wPx + x) = some
          (if y < s.cfg.barH ∧
              ((y % s.cfg.gridY = 0 ∧ x % s.cfg.dot = 0) ∨
                (x % s.cfg.gridX = 0 ∧ y % s.cfg.dot = 0) ∨
                (x < s.cfg.wCols ∧ s.cfg.barH - (h x).toNat ≤ y) ∨
                x = 0 ∨ x = s.cfg.wPx - 1)
            then 1#1 else 0#1)

/-- R261, R269, R272, R273: RENDER sends exactly these requests in this order: the clear, the
horizontal guidelines, the vertical ticks, the bars, the left and the right border, the labels; it
leaves in TXT the NLBL label requests in order, each centred on its tick and clamped into the bitmap,
sets DF_VALID, and touches nothing but DF and TXT. -/
def Obligations.RenderLabelsAndFrame : Prop :=
  ∀ (s : State) (h : Nat → BitVec 5) (l : Nat → BitVec 16),
    s.idleReady → s.colValid = true →
    (∀ x, x < s.cfg.wCols → memRead s.colH x = some (h x)) →
    (∀ j, j < s.cfg.nlbl → memRead s.lbl j = some (l j)) →
    let width := fun j => (labelString (l j)).length * s.cfg.charW * s.cfg.textScale
    let lx := fun j => min (j * s.cfg.labelStep - width j / 2) (s.cfg.wPx - width j)
    let requests : List DispReq :=
      [.clear] ++
      (List.range s.cfg.barH).flatMap (fun y => if y % s.cfg.gridY = 0 then
        (List.range s.cfg.wPx).flatMap (fun x => if x % s.cfg.dot = 0 then [.setPx x y] else [])
        else []) ++
      (List.range s.cfg.wPx).flatMap (fun x => if x % s.cfg.gridX = 0 then
        (List.range s.cfg.barH).flatMap (fun y => if y % s.cfg.dot = 0 then [.setPx x y] else [])
        else []) ++
      (List.range s.cfg.wCols).flatMap (fun x =>
        (List.range (h x).toNat).map (fun t => .setPx x (s.cfg.barH - (t + 1)))) ++
      (List.range s.cfg.barH).map (fun y => .setPx 0 y) ++
      (List.range s.cfg.barH).map (fun y => .setPx (s.cfg.wPx - 1) y) ++
      (List.range s.cfg.nlbl).map (fun j =>
        .text (lx j) s.cfg.barH s.cfg.textScale (labelString (l j)))
    answers s.env.dispLeft requests.length →
    ∃ t : State, exec .render s = .next t ∧
      t.txt = (List.range s.cfg.nlbl).map (fun j =>
        { x := lx j, y := s.cfg.barH, scale := s.cfg.textScale, str := labelString (l j) }) ∧
      t = { s with
        dfValid := true
        df := t.df
        txt := t.txt
        history := s.history ++ requests.map .disp ++ [.respond .ok 0#32]
        env := { s.env with
          dispLeft := s.env.dispLeft.map (fun k => k - requests.length) } }

/-- R275: every coordinate RENDER sends lies inside the bitmap, and every string has 2 to 4
characters. -/
def Obligations.RequestsInsideBitmap : Prop :=
  ∀ (c : Config) (hs : List (BitVec 5)) (ls : List (BitVec 16)), c.Valid →
    hs.length = c.wCols → (∀ h ∈ hs, h.toNat ≤ c.barH) → (∀ v ∈ ls, v.toNat ≤ 524) →
    ∀ r ∈ renderRequests c hs ls,
      match r with
      | .clear => True
      | .setPx x y => x < c.wPx ∧ x ≤ 254 ∧ y < c.barH ∧ y < c.hPx
      | .text x y _ str =>
        x + str.length * c.charW * c.textScale ≤ c.wPx ∧ y = c.barH ∧
          y + c.charH * c.textScale ≤ c.hPx ∧ 2 ≤ str.length ∧ str.length ≤ 4
      | .flush => False

/-- R271: a label string is the decimal digits of the value, most significant first, without leading
zeros, then "k". -/
def Obligations.LabelStringIsDecimal : Prop :=
  ∀ v : BitVec 16, ∃ ds : List Nat,
    labelString v = ds.map (fun d => BitVec.ofNat 8 (0x30 + d)) ++ [0x6B#8] ∧
    ds ≠ [] ∧ (∀ d ∈ ds, d ≤ 9) ∧ ds.foldl (fun acc d => 10 * acc + d) 0 = v.toNat ∧
    (ds.head? = some 0 → ds = [0]) ∧
    (v.toNat ≤ 524 → 2 ≤ (labelString v).length ∧ (labelString v).length ≤ 4)

/-- R90: the fields every display request drives: CLEAR and FLUSH the operation code alone; a pixel its
coordinates; a text its place, scale and length, and its characters from bits [7:0] up, unused bytes 0.
Every field an operation does not use is 0. -/
def Obligations.DisplayPortFields : Prop :=
  DispReq.clear.beat = ⟨0#2, 0#8, 0#8, 0#4, 0#3, 0#32⟩ ∧
  DispReq.flush.beat = ⟨3#2, 0#8, 0#8, 0#4, 0#3, 0#32⟩ ∧
  (∀ x y, x < 256 → y < 256 →
    (DispReq.setPx x y).beat.op = 1#2 ∧ (DispReq.setPx x y).beat.x.toNat = x ∧
    (DispReq.setPx x y).beat.y.toNat = y ∧ (DispReq.setPx x y).beat.scale = 0#4 ∧
    (DispReq.setPx x y).beat.len = 0#3 ∧ (DispReq.setPx x y).beat.text = 0#32) ∧
  (∀ x y sc (str : List Byte), x < 256 → y < 256 → sc < 16 → str.length ≤ 4 →
    (DispReq.text x y sc str).beat.op = 2#2 ∧ (DispReq.text x y sc str).beat.x.toNat = x ∧
    (DispReq.text x y sc str).beat.y.toNat = y ∧
    (DispReq.text x y sc str).beat.scale.toNat = sc ∧
    (DispReq.text x y sc str).beat.len.toNat = str.length ∧
    ∀ k, k < 4 → (DispReq.text x y sc str).beat.text.extractLsb' (8 * k) 8 = str.getD k 0#8)

/-- R278, R280, R281, R91: FLUSH with a rendered frame asks for the flush; an answer `ok = 1` makes DEV
the pair (DF, TXT); an answer `ok = 0` is the fault DISPFAIL, and DEV is unspecified; with no rendered
frame it is the fault SEQ, before any request. Nothing else is touched. The answer is the next one on
the tape if it lists one, else a free draw. -/
def Obligations.FlushHandsFrameOver : Prop :=
  ∀ s : State, s.idleReady →
    let answered := fun (ok : Bool) (t : State) => exec .flush s = .next t ∧
      (ok = true → t = { s with
        dev := some ⟨s.df, s.txt⟩
        history := s.history ++ [.disp .flush, .flushAnswer true, .respond .ok 0#32]
        env := { s.env with
          dispLeft := s.env.dispLeft.map (fun k => k - 2), flushes := s.env.flushes.tail,
          drawn := t.env.drawn } }) ∧
      (ok = false → t = { s with
        mode := .halted
        fault := ⟨7#4, 0x06#8, 5#3⟩
        dev := t.dev
        history := s.history ++
          [.disp .flush, .flushAnswer false, .respond .fault 0x00005067#32]
        env := { s.env with
          dispLeft := s.env.dispLeft.map (fun k => k - 2), flushes := s.env.flushes.tail,
          drawn := t.env.drawn } })
    (s.dfValid = true → answers s.env.dispLeft 2 →
      (∀ ok r, s.env.flushes = ok :: r → ∃ t, answered ok t) ∧
      (s.env.flushes = [] → ∃ ok t, answered ok t)) ∧
    (s.dfValid = false → exec .flush s = .next { s with
      mode := .halted
      fault := ⟨2#4, 0x06#8, 5#3⟩
      history := s.history ++ [.respond .fault 0x00005062#32] })

/-! ## XFINIT, XFREL -/

/-- R186, R188, R189: XFINIT takes the engine's handle and sets XF_READY; an engine that answers
`ok = 0` is the fault XFALLOC, XF_READY and XF_HANDLE unchanged; a second init is the fault REINIT,
before any request. The answer is the next one on the tape if it lists one, else a free draw of `ok`
and of a HANDLE_W-bit handle. -/
def Obligations.XfinitInitialises : Prop :=
  ∀ s : State, s.idleReady →
    let answered := fun (ok : Bool) (h : BitVec 32) (t : State) => exec .xfinit s = .next t ∧
      (ok = true → t = { s with
        xfReady := true
        xfHandle := h
        history := s.history ++ [.xfInit s.cfg.n true h, .respond .ok 0#32]
        env := { s.env with
          xfLeft := s.env.xfLeft.map (fun k => k - 1), inits := s.env.inits.tail,
          drawn := t.env.drawn } }) ∧
      (ok = false → t = { s with
        mode := .halted
        fault := ⟨6#4, 0x10#8, 7#3⟩
        history := s.history ++ [.xfInit s.cfg.n false h, .respond .fault 0x00007106#32]
        env := { s.env with
          xfLeft := s.env.xfLeft.map (fun k => k - 1), inits := s.env.inits.tail,
          drawn := t.env.drawn } })
    (s.xfReady = false → answers s.env.xfLeft 1 →
      (∀ ok h r, s.env.inits = (ok, h) :: r → h.toNat < 2 ^ s.cfg.handleW →
        ∃ t, answered ok h t) ∧
      (s.env.inits = [] → ∃ ok h t, h.toNat < 2 ^ s.cfg.handleW ∧ answered ok h t)) ∧
    (s.xfReady = true → exec .xfinit s = .next { s with
      mode := .halted
      fault := ⟨5#4, 0x10#8, 7#3⟩
      history := s.history ++ [.respond .fault 0x00007105#32] })

/-- R200, R201: XFREL sends the release with XF_HANDLE and clears XF_READY and XF_HANDLE, no buffer
touched; without a handle it is the fault NOINIT and sends nothing. -/
def Obligations.XfrelReleases : Prop :=
  ∀ s : State, s.idleReady →
    (s.xfReady = true → answers s.env.xfLeft 1 → exec .xfrel s = .next { s with
      xfReady := false
      xfHandle := 0#32
      history := s.history ++ [.xfRelease s.xfHandle, .respond .ok 0#32]
      env := { s.env with xfLeft := s.env.xfLeft.map (fun k => k - 1) } }) ∧
    (s.xfReady = false → exec .xfrel s = .next { s with
      mode := .halted
      fault := ⟨4#4, 0x11#8, 7#3⟩
      history := s.history ++ [.respond .fault 0x00007114#32] })

/-! ## Faults -/

/-- R303, R310: RMDC, MAP, RENDER and FLUSH on an invalid input are the fault SEQ: FAULT and MODE are
written, the response carries the FAULT CSR, and nothing else changes. -/
def Obligations.StageOutOfSequenceFaults : Prop :=
  ∀ s : State, s.idleReady →
    (s.sbCnt ≠ s.cfg.n → exec .rmdc s = .next { s with
      mode := .halted
      fault := ⟨2#4, 0x02#8, 1#3⟩
      history := s.history ++ [.respond .fault 0x00001022#32] }) ∧
    (s.binCnt ≠ s.cfg.nb → exec .map s = .next { s with
      mode := .halted
      fault := ⟨2#4, 0x04#8, 3#3⟩
      history := s.history ++ [.respond .fault 0x00003042#32] }) ∧
    (s.colValid = false → exec .render s = .next { s with
      mode := .halted
      fault := ⟨2#4, 0x05#8, 4#3⟩
      history := s.history ++ [.respond .fault 0x00004052#32] }) ∧
    (s.dfValid = false → exec .flush s = .next { s with
      mode := .halted
      fault := ⟨2#4, 0x06#8, 5#3⟩
      history := s.history ++ [.respond .fault 0x00005062#32] })

/-- R195, R194, R304: XFEXEC without a handle is the fault NOINIT, whatever CS holds; with one and an
input that does not hold exactly N elements it is the fault LEN; nothing is sent to the engine. -/
def Obligations.XfexecChecksHandleThenLength : Prop :=
  ∀ s : State, s.idleReady →
    (s.xfReady = false → exec .xfexec s = .next { s with
      mode := .halted
      fault := ⟨4#4, 0x03#8, 2#3⟩
      history := s.history ++ [.respond .fault 0x00002034#32] }) ∧
    (s.xfReady = true → s.inCnt ≠ s.cfg.n → exec .xfexec s = .next { s with
      mode := .halted
      fault := ⟨3#4, 0x03#8, 2#3⟩
      history := s.history ++ [.respond .fault 0x00002033#32] })

/-- R318: faults are precise. A step that enters HALTED changes nothing but MODE, FAULT, the history
and the outside world, and, for DISPFAIL alone, DEV. -/
def Obligations.FaultsArePrecise : Prop :=
  ∀ s t : State, s.mode ≠ .halted → step s = .next t → t.mode = .halted →
    t = { s with
      mode := .halted, fault := t.fault, dev := t.dev, history := t.history, env := t.env } ∧
    (t.fault.code ≠ 7#4 → t.dev = s.dev) ∧
    ∃ es, t.history = s.history ++ es ∧ responses es = [.respond .fault t.fault.word]

/-- R98, R323, R87, R54: a command whose collaborator does not answer all its handshakes waits: no
fault, no response, MODE unchanged, `cmd_ready` 0, `busy` 1; the requests it has made, and the beats
that crossed the port, are recorded. How handshakes are counted is the model's choice
(notes/assumptions/5.md), and so is what is recorded of a request that is not answered (11.md). -/
def Obligations.SilentCollaboratorStalls : Prop :=
  ∀ (s : State) (k : Nat), s.idleReady →
    let waits := fun (i : Instr) (who : Collaborator) (es : List Event) =>
      ∃ t : State, exec i s = .next t ∧
        t.waiting = some who ∧ t.mode = .idle ∧ t.fault = s.fault ∧ t.cmdReady = false ∧
        t.busy = true ∧ t.history = s.history ++ es ∧ responses es = []
    (s.env.capLeft = some k → k < 1 + s.cfg.n → ∃ vals : List Byte, vals.length = k - 1 ∧
      waits .capture .captureEngine
        (.capDrain :: if k = 0 then [] else .capStart s.cfg.n :: sampleEvents 0 vals)) ∧
    (s.env.xfLeft = some 0 → s.xfReady = false →
      waits .xfinit .transformEngine [.xfInitRequest s.cfg.n]) ∧
    (s.env.xfLeft = some 0 → s.xfReady = true →
      waits .xfrel .transformEngine [.xfRelease s.xfHandle]) ∧
    (s.env.xfLeft = some k → k < s.cfg.n + s.cfg.nb → s.xfReady = true → s.inCnt = s.cfg.n →
      filledTo s.cs s.cfg.n → waits .xfexec .transformEngine
        [.xfExec s.xfHandle ((s.cs.map Prod.snd).take k)
          ((transform s.cfg (s.cs.map Prod.snd)).take (k - s.cfg.n))]) ∧
    (s.env.dispLeft = some k → s.colValid = true → filledTo s.colH s.cfg.wCols →
      filledTo s.lbl s.cfg.nlbl →
      k < (renderRequests s.cfg (s.colH.map Prod.snd) (s.lbl.map Prod.snd)).length →
      waits .render .display
        (((renderRequests s.cfg (s.colH.map Prod.snd) (s.lbl.map Prod.snd)).take k).map .disp)) ∧
    (s.env.dispLeft = some k → k < 2 → s.dfValid = true →
      waits .flush .display (if k = 0 then [] else [.disp .flush]))

/-- R323, R360: a stuck sequencer stays stuck: only a reset ends the wait, and the only thing any other
turn changes is ZOOM_LEVEL, at a zoom event, which the history records; no other event is added. -/
def Obligations.OnlyResetEndsWait : Prop :=
  ∀ s t : State, s.waiting.isSome = true → s.mode ≠ .halted → s.env.sched.head? ≠ some .reset →
    step s = .next t →
    t = { s with
      zoomLevel := if s.env.sched.head? = some .zoom then t.zoomLevel else s.zoomLevel
      history := if s.env.sched.head? = some .zoom then s.history ++ [.zoomEvent] else s.history
      env := { s.env with sched := t.env.sched } } ∧
    responses t.history = responses s.history

/-! ## LD -/

/-- R291, R292: LD of an element that holds a value answers it, extended to 32 bits, and writes
nothing; in MODE IDLE and in MODE HALTED (R296). -/
def Obligations.LdAnswersElement : Prop :=
  ∀ s : State, s.cfg.Valid → s.idleReady ∨ s.mode = .halted →
    let answersWith := fun (space index : Nat) (v : Word) =>
      exec (.ld space index) s = .next { s with history := s.history ++ [.respond .ok v] }
    (∀ a v, a < 0x20 → a ≠ 0x0F → csrRead s a = some v → answersWith 0 a v) ∧
    (∀ i v, i < s.cfg.n → i < s.sbCnt → memRead s.sb i = some v →
      ∃ w, w.toNat = v.toNat ∧ answersWith 1 i w) ∧
    (∀ i v, i < s.cfg.n → i < s.inCnt → memRead s.cs i = some v → signedIn s.cfg.csW v →
      ∃ w, w.toInt = v ∧ answersWith 2 i w) ∧
    (∀ i v, i < s.cfg.nb → i < s.binCnt → memRead s.binRe i = some v → signedIn s.cfg.bw v →
      ∃ w, w.toInt = v ∧ answersWith 3 i w) ∧
    (∀ i v, i < s.cfg.nb → i < s.binCnt → memRead s.binIm i = some v → signedIn s.cfg.bw v →
      ∃ w, w.toInt = v ∧ answersWith 4 i w) ∧
    (∀ i v, i < s.cfg.wCols → s.colValid = true → memRead s.colH i = some v →
      ∃ w, w.toNat = v.toNat ∧ answersWith 5 i w) ∧
    (∀ i v, i < s.cfg.wCols → s.colValid = true → memRead s.colBin i = some v → v < s.cfg.n / 2 →
      ∃ w, w.toNat = v ∧ answersWith 6 i w) ∧
    (∀ i v, i < s.cfg.nlbl → s.colValid = true → memRead s.lbl i = some v →
      ∃ w, w.toNat = v.toNat ∧ answersWith 7 i w) ∧
    (∀ i v, i < s.cfg.wPx * s.cfg.hPx → s.dfValid = true → memRead s.df i = some v →
      ∃ w, w.toNat = v.toNat ∧ answersWith 8 i w) ∧
    (∀ i, i < s.cfg.nb → ∃ w, w.toNat = s.cfg.fs * i ∧ answersWith 9 i w)

/-- R293, R294, R295, R310: in MODE IDLE an LD outside the spaces is the fault IDX, and else an LD of
an element that holds no value the fault UNWR; STAGE is 7 and OP 0x20. In MODE HALTED (R296) an LD
whose checks fail answers (REFUSED, FAULT) and changes no state. -/
def Obligations.LdFaults : Prop :=
  ∀ (s : State) (space index : Nat),
    (s.idleReady → outsideSpaces s.cfg space index → exec (.ld space index) s = .next { s with
      mode := .halted
      fault := ⟨8#4, 0x20#8, 7#3⟩
      history := s.history ++ [.respond .fault 0x00007208#32] }) ∧
    (s.idleReady → ¬ outsideSpaces s.cfg space index → s.cfg.Valid → s.elementEmpty space index →
      exec (.ld space index) s = .next { s with
        mode := .halted
        fault := ⟨9#4, 0x20#8, 7#3⟩
        history := s.history ++ [.respond .fault 0x00007209#32] }) ∧
    (s.mode = .halted → outsideSpaces s.cfg space index ∨ s.elementEmpty space index →
      exec (.ld space index) s = .next { s with
        history := s.history ++ [.respond .refused
          (0#17 ++ s.fault.stage ++ s.fault.op ++ s.fault.code)] })

/-- R41 to R45, R49: the constant CSRs of every parameter record, field by field, and profile B's
words. -/
def Obligations.ParameterCsrs : Prop :=
  (∀ s : State, s.cfg.Valid →
    csrRead s 0x00 = some 0x53415031#32 ∧
    (∃ w, csrRead s 0x01 = some w ∧ (w.extractLsb' 0 4).toNat = s.cfg.logN ∧
      (w.extractLsb' 4 4).toNat = s.cfg.levels - 1 ∧ w.getLsbD 8 = s.cfg.agg ∧
      w.getLsbD 9 = s.cfg.gainLive ∧ (w.extractLsb' 10 5).toNat = s.cfg.bw - 1 ∧
      w.getLsbD 15 = false ∧ (w.extractLsb' 16 4).toNat = s.cfg.gainW - 1 ∧
      w.extractLsb' 20 12 = 0#12) ∧
    (∃ w, csrRead s 0x02 = some w ∧ (w.extractLsb' 0 8).toNat = s.cfg.wCols ∧
      (w.extractLsb' 8 8).toNat = s.cfg.wPx ∧ (w.extractLsb' 16 8).toNat = s.cfg.hPx ∧
      (w.extractLsb' 24 8).toNat = s.cfg.barH) ∧
    (∃ w, csrRead s 0x03 = some w ∧ w.toNat = s.cfg.fs) ∧
    (∃ w, csrRead s 0x04 = some w ∧ (w.extractLsb' 0 16).toNat = s.cfg.scaleMul ∧
      (w.extractLsb' 16 7).toNat = s.cfg.scaleShift ∧ w.extractLsb' 23 9 = 0#9) ∧
    (∀ l, l < 16 → ∃ w, csrRead s (0x10 + l) = some w ∧
      w.toNat = if l < s.cfg.levels then s.cfg.zoomMax.getD l 0 else 0)) ∧
  csrRead State.reset 0x01 = some 0x000B7D3A#32 ∧ csrRead State.reset 0x02 = some 0x1820807F#32 ∧
  csrRead State.reset 0x03 = some 0x0000C350#32 ∧ csrRead State.reset 0x04 = some 0x002F0001#32

/-- R46 to R49: the fields of the STATUS, FAULT and ZOOM CSRs, and the data registers at addresses 0x08
to 0x0E; the reset value of ZOOM is `ZOOM_MAX[0] << 16` (R40). -/
def Obligations.StatusCsrs : Prop :=
  (∀ s : State, s.cfg.Valid →
    (∃ w, csrRead s 0x05 = some w ∧ (w.getLsbD 0 = true ↔ s.mode = .halted) ∧
      w.getLsbD 1 = s.xfReady ∧ w.getLsbD 2 = s.colValid ∧ w.getLsbD 3 = s.dfValid ∧
      w.extractLsb' 4 2 = s.mode.code ∧ w.extractLsb' 6 3 = s.seq.index ∧
      w.extractLsb' 9 23 = 0#23) ∧
    (∃ w, csrRead s 0x06 = some w ∧ w.extractLsb' 0 4 = s.fault.code ∧
      w.extractLsb' 4 8 = s.fault.op ∧ w.extractLsb' 12 3 = s.fault.stage ∧
      w.extractLsb' 15 17 = 0#17) ∧
    (∃ w, csrRead s 0x07 = some w ∧ w.extractLsb' 0 4 = s.zoomLevel ∧
      w.extractLsb' 4 4 = s.zsnap ∧ w.extractLsb' 8 8 = 0#8 ∧
      (w.extractLsb' 16 12).toNat = s.cfg.zoomAt s.zoomLevel.toNat ∧
      w.extractLsb' 28 4 = 0#4) ∧
    (s.buffersFilled → s.registersInRange →
      (∃ w, csrRead s 0x08 = some w ∧ w.toNat = s.sbCnt) ∧
      (∃ w, csrRead s 0x09 = some w ∧ w.toNat = s.inCnt) ∧
      (∃ w, csrRead s 0x0A = some w ∧ w.toNat = s.binCnt) ∧
      (∃ w, csrRead s 0x0B = some w ∧ w.toNat = s.sum) ∧
      (∃ w, csrRead s 0x0C = some w ∧ w.toNat = s.meanFx) ∧
      (∃ w, csrRead s 0x0D = some w ∧ w.toNat = s.gainLatch.toNat) ∧
      csrRead s 0x0E = some s.xfHandle)) ∧
  ∀ c : Config, c.Valid →
    csrRead (State.resetOf c) 0x07 = some (BitVec.ofNat 32 (c.zoomAt 0 * 2 ^ 16))

/-- R55: the pins; R342: while `rst` is 1 they are 0. -/
def Obligations.PinsShowRegisters : Prop :=
  ∀ s : State,
    ((s.pins false).halted = true ↔ s.mode = .halted) ∧
    ((s.pins false).busy = true ↔ s.mode = .frame1 ∨ s.mode = .run ∨ s.waiting ≠ none) ∧
    (s.pins false).faultCode = s.fault.code ∧ (s.pins false).zoomLevel = s.zoomLevel ∧
    ((s.pins false).cmdReady = true ↔ s.idleReady ∨ s.mode = .halted) ∧
    s.pins true = ⟨false, false, false, 0#4, 0#4⟩

/-! ## FRAME and RUN -/

/-- R143, R146: FRAME and RUN set MODE and SEQ, send no response, and change nothing else. -/
def Obligations.FrameAndRunStart : Prop :=
  ∀ s : State, s.idleReady →
    exec .frame s = .next { s with mode := .frame1, seq := .capture } ∧
    exec .run s = .next { s with mode := .run, seq := .capture }

/-- R24, R144, R143, R146, R98, R323: one stage inside FRAME or RUN. A completed stage advances SEQ by
one; after stage 5 SEQ wraps to 0, a RUN goes on and a FRAME ends with MODE IDLE and (OK, 0); no other
response is sent. A raised fault records OP 0x08 or 0x09 and STAGE = SEQ, and SEQ keeps its value. A stage
whose collaborator falls silent waits: no fault, no response, MODE and SEQ kept, `cmd_ready` 0 and `busy`
1. How handshakes are counted is the model's choice (notes/assumptions/5.md). -/
def Obligations.StageAdvancesSeq : Prop :=
  ∀ s : State, s.mode = .frame1 ∨ s.mode = .run →
    let quietly := fun (u : State) => u.mode = s.mode ∧ u.seq = s.seq ∧
      ∃ es, u.history = s.history ++ es ∧ responses es = []
    let stalls := fun (who : Collaborator) => ∃ u, stageRule s.seq s = .stalled who u
    (∀ u, stageRule s.seq s = .done u → quietly u ∧
      (s.seq ≠ .flush → ∃ q : Stage, q.index = s.seq.index + 1#3 ∧
        runStage s = .next { u with seq := q }) ∧
      (s.seq = .flush → s.mode = .run → runStage s = .next { u with seq := .capture }) ∧
      (s.seq = .flush → s.mode = .frame1 → runStage s = .next { u with
        seq := .capture, mode := .idle, history := u.history ++ [.respond .ok 0#32] })) ∧
    (∀ c u, stageRule s.seq s = .raised c u →
      quietly u ∧ ∃ op : BitVec 8, op = (if s.mode = .run then 0x09#8 else 0x08#8) ∧
        runStage s = .next { u with
          mode := .halted
          fault := ⟨c.code, op, s.seq.index⟩
          history := u.history ++ [.respond .fault (0#17 ++ s.seq.index ++ op ++ c.code)] }) ∧
    (∀ who u, stageRule s.seq s = .stalled who u →
      quietly u ∧ u.fault = s.fault ∧ ∃ t : State, t = { u with waiting := some who } ∧
        runStage s = .next t ∧ t.cmdReady = false ∧ t.busy = true) ∧
    (∀ k, s.seq = .capture → s.env.capLeft = some k → k < 1 + s.cfg.n → stalls .captureEngine) ∧
    (∀ k, s.seq = .xfexec → s.env.xfLeft = some k → k < s.cfg.n + s.cfg.nb → s.xfReady = true →
      s.inCnt = s.cfg.n → filledTo s.cs s.cfg.n → stalls .transformEngine) ∧
    (∀ k, s.seq = .render → s.env.dispLeft = some k → s.colValid = true →
      filledTo s.colH s.cfg.wCols → filledTo s.lbl s.cfg.nlbl →
      k < (renderRequests s.cfg (s.colH.map Prod.snd) (s.lbl.map Prod.snd)).length →
      stalls .display) ∧
    (∀ k, s.seq = .flush → s.env.dispLeft = some k → k < 2 → s.dfValid = true → stalls .display)

/-- R145: from a state with MODE IDLE, FRAME reaches the state that CAPTURE, RMDC, XFEXEC, MAP, RENDER,
FLUSH (PIPE) reach under the same draws and the same zoom schedule; the two differ only in the
responses, MODE, SEQ and FAULT.OP (and in the words of the PIPE that wait when a collaborator is
silent). Schedule and draws are written as notes/assumptions/3.md and 4.md say. -/
def Obligations.FrameEqualsPipe : Prop :=
  ∀ (s : State) (zooms : List Nat), s.Inv → s.idleReady → zooms.length = 6 →
    ∃ u v : State,
      stepN (1 + (turnsAfterZooms zooms).length)
        (s.given [encode .frame] (.sequencer :: turnsAfterZooms zooms)) = .next u ∧
      stepN (turnsAfterZooms zooms).length
        (s.given (pipeCommands.map encode) (turnsAfterZooms zooms)) = .next v ∧
      agreeAfterFrame u v

/-- R147: inside FRAME and RUN the only faults are NOINIT, at stage 2, and DISPFAIL, at stage 5; SEQ
and LEN are checked and never raised. -/
def Obligations.FaultsInsideFrame : Prop :=
  ∀ s t : State, s.loopReady → s.mode = .frame1 ∨ s.mode = .run → s.waiting = none →
    step s = .next t → t.mode = .halted →
    (t.fault.code = 4#4 ∧ t.fault.stage = 2#3) ∨ (t.fault.code = 7#4 ∧ t.fault.stage = 5#3)

/-- R146: in MODE RUN every step but a reset leaves MODE RUN with `cmd_ready` 0 and no response, or is
a fault entry. -/
def Obligations.RunNeverCompletes : Prop :=
  ∀ s t : State, s.mode = .run → s.env.sched.head? ≠ some .reset → step s = .next t →
    (t.mode = .run ∧ t.cmdReady = false ∧ responses t.history = responses s.history) ∨
    (t.mode = .halted ∧ t.fault.op = 0x09#8 ∧ t.fault.stage = s.seq.index ∧
      responses t.history = responses s.history ++ [.respond .fault t.fault.word])

/-- R143 (its example), R178, R191 c, R218: a FRAME on N identical samples, every collaborator
answering, takes seven turns, ends with MODE IDLE and SEQ 0, all CS, bins and column heights 0, the
rendered frame on the device, and one response, (OK, 0). -/
def Obligations.SilentFrame : Prop :=
  ∀ (s : State) (v : Byte) (rest : List Byte) (ws : List Word) (oks : List Bool), s.Inv →
    s.idleReady → s.xfReady = true → s.env.sched = [] → s.env.cmds = encode .frame :: ws →
    s.env.samples = List.replicate s.cfg.n v ++ rest → s.env.flushes = true :: oks →
    s.env.capLeft = none → s.env.xfLeft = none → s.env.dispLeft = none →
    ∃ t : State, stepN 7 s = .next t ∧ t.mode = .idle ∧ t.seq = .capture ∧ t.fault = s.fault ∧
      (∀ k, k < s.cfg.n → memRead t.sb k = some v ∧ memRead t.cs k = some 0) ∧
      (∀ k, k < s.cfg.nb → memRead t.binRe k = some 0 ∧ memRead t.binIm k = some 0) ∧
      (∀ x, x < s.cfg.wCols → memRead t.colH x = some 0#5) ∧
      t.dev = some ⟨t.df, t.txt⟩ ∧ t.env.cmds = ws ∧
      responses t.history = responses s.history ++ [.respond .ok 0#32]

/-! ## The zoom controller -/

/-- R247, R150: a zoom event sets ZOOM_LEVEL to `(ZOOM_LEVEL + 1) mod LEVELS`, in every MODE, and
changes nothing else (it is recorded in the history). -/
def Obligations.ZoomEventSteps : Prop :=
  ∀ (s : State) (r : List Turn), s.cfg.Valid → s.env.sched = .zoom :: r →
    ∃ level : BitVec 4, level.toNat = (s.zoomLevel.toNat + 1) % s.cfg.levels ∧
      step s = .next { s with
        zoomLevel := level
        history := s.history ++ [.zoomEvent]
        env := { s.env with sched := r } }

/-- R248: no step but a zoom event and a reset changes ZOOM_LEVEL. -/
def Obligations.OnlyZoomEventChangesLevel : Prop :=
  ∀ s t : State, s.env.sched.head? ≠ some .zoom → s.env.sched.head? ≠ some .reset →
    step s = .next t → t.zoomLevel = s.zoomLevel

/-- R251: whatever the sequencer does meanwhile, over any number of steps without a reset, the `e`
events that step the level move it `e` steps on, modulo LEVELS; they are exactly the events taken off
the schedule, each recorded once: none is missed and none counts twice. -/
def Obligations.EveryZoomEventCountsOnce : Prop :=
  ∀ (n : Nat) (s t : State), s.zoomLevel.toNat < s.cfg.levels → Turn.reset ∉ s.env.sched →
    stepN n s = .next t →
    ∃ es, t.history = s.history ++ es ∧
      s.env.sched.count .zoom = es.count .zoomEvent + t.env.sched.count .zoom ∧
      t.zoomLevel.toNat = (s.zoomLevel.toNat + es.count .zoomEvent) % s.cfg.levels

/-! ## Invariants -/

/-- The invariants hold at reset, for every valid parameter record; that `State.reset` has profile B as
its record is the model's choice (notes/assumptions/1.md). -/
def Obligations.InvariantsAtReset : Prop :=
  (∀ c : Config, c.Valid → (State.resetOf c).Inv ∧ (State.resetOf c).memoriesCanonical ∧
    (State.resetOf c).columnsOfZsnap) ∧
  State.reset.Inv ∧ State.reset.cfg = Config.profileB

/-- Every step keeps the canonical form of every buffer space: indices strictly rising. The form is the
model's choice (notes/assumptions/7.md). -/
def Obligations.MemoriesStayCanonical : Prop :=
  ∀ s t : State, s.memoriesCanonical → step s = .next t → t.memoriesCanonical

/-- R26 to R28, R38, R39, R57, R294: every step keeps that exactly the elements the counters and flags
say are written hold a value in SB, CS, BIN_RE, BIN_IM, COL_H and COL_BIN, and that between commands
each counter is 0 or full. Of two spaces it says less, by the model's choice: the LBL_KHZ registers hold
a value whatever COL_VALID is (notes/assumptions/9.md), and every pixel of DF holds one while DF_VALID
is 1, nothing being said of DF while it is 0 (notes/assumptions/7.md). -/
def Obligations.BuffersStayFilled : Prop :=
  ∀ s t : State, s.buffersFilled → s.countersWhole → step s = .next t →
    t.buffersFilled ∧ t.countersWhole

/-- Section 3 of 10_state.md, R70: every step keeps every register of section 3 and every element of a
buffer space in its range: the counters, ZOOM_LEVEL and ZSNAP, and the registers and elements of
`State.registersInRange`; the others have a bit vector type of exactly their width. -/
def Obligations.RegistersStayInRange : Prop :=
  ∀ s t : State, s.registersInRange → s.countersInRange → s.zoomInRange → step s = .next t →
    t.registersInRange ∧ t.countersInRange ∧ t.zoomInRange

/-- R250, R23, R301, R34, R33: every step keeps ZOOM_LEVEL and ZSNAP below LEVELS; SEQ 0 in MODE IDLE,
and MODE HALTED exactly when FAULT.CODE is one of the nine causes; XF_HANDLE 0 while XF_READY is 0,
and GAIN_LATCH 0 in fixed mode. -/
def Obligations.ControlRegistersStayCoherent : Prop :=
  ∀ s t : State, step s = .next t →
    (s.zoomInRange → t.zoomInRange) ∧ (s.modeCoherent → t.modeCoherent) ∧
      (s.portsCoherent → t.portsCoherent)

/-- R226, R38: every step keeps that valid columns and their labels all belong to ZSNAP's level. -/
def Obligations.ColumnsStayOfZsnap : Prop :=
  ∀ s t : State, s.columnsOfZsnap → step s = .next t → t.columnsOfZsnap

/-- R95, R120, R5: a step only appends to the history, appends at most one response, and does not
change the parameter record. That a reset keeps the history is the model's choice
(notes/assumptions/11.md). -/
def Obligations.HistoryOnlyGrows : Prop :=
  ∀ s t : State, step s = .next t → t.cfg = s.cfg ∧
    ∃ es, t.history = s.history ++ es ∧ (responses es).length ≤ 1

/-- The machine never stops: from a state that meets the invariants every step answers a next state
that meets them, so no stage meets an element without a value (R50, R147, R300). -/
def Obligations.EveryStepGoesOn : Prop :=
  ∀ s : State, s.Inv → ∃ t, step s = .next t ∧ t.Inv
end

