-- ==== Sys2Proof/Laws/Encoding.lean ====
section
/-! SUPPORT. Fields of a command word put together, and taken apart again (30_encoding.md R111,
R112). -/

namespace Sys2Proof

@[simp] theorem opField_append (o : BitVec 8) (a c : BitVec 4) (b : BitVec 16) :
    opField (o ++ a ++ c ++ b) = o := by
  ext i hi
  simp only [opField, BitVec.getElem_extractLsb', BitVec.getLsbD_append]
  rw [if_neg (by omega), if_neg (by omega), if_neg (by omega), ← BitVec.getLsbD_eq_getElem]
  congr 1; omega

@[simp] theorem spaceField_append (o : BitVec 8) (a c : BitVec 4) (b : BitVec 16) :
    spaceField (o ++ a ++ c ++ b) = a := by
  ext i hi
  simp only [spaceField, BitVec.getElem_extractLsb', BitVec.getLsbD_append]
  rw [if_neg (by omega), if_neg (by omega), if_pos (by omega), ← BitVec.getLsbD_eq_getElem]
  congr 1; omega

@[simp] theorem zeroFieldL_append (o : BitVec 8) (a c : BitVec 4) (b : BitVec 16) :
    zeroFieldL (o ++ a ++ c ++ b) = c := by
  ext i hi
  simp only [zeroFieldL, BitVec.getElem_extractLsb', BitVec.getLsbD_append]
  rw [if_neg (by omega), if_pos (by omega), ← BitVec.getLsbD_eq_getElem]
  congr 1; omega

@[simp] theorem indexField_append (o : BitVec 8) (a c : BitVec 4) (b : BitVec 16) :
    indexField (o ++ a ++ c ++ b) = b := by
  ext i hi
  simp only [indexField, BitVec.getElem_extractLsb', BitVec.getLsbD_append]
  rw [if_pos (by omega), ← BitVec.getLsbD_eq_getElem]
  congr 1; omega

/-- A word is its fields of format L. -/
theorem formatL_fields (w : Word) : opField w ++ spaceField w ++ zeroFieldL w ++ indexField w = w := by
  simp only [opField, spaceField, zeroFieldL, indexField]
  rw [BitVec.extractLsb'_append_extractLsb'_eq_extractLsb' (by rfl),
    BitVec.extractLsb'_append_extractLsb'_eq_extractLsb' (by rfl),
    BitVec.extractLsb'_append_extractLsb'_eq_extractLsb' (by rfl)]
  simp

/-- A word is its fields of format Z. -/
theorem formatZ_fields (w : Word) : opField w ++ zeroFieldZ w = w := by
  simp only [opField, zeroFieldZ]
  rw [BitVec.extractLsb'_append_extractLsb'_eq_extractLsb' (by rfl)]
  simp

end Sys2Proof
end

