-- ==== Sys2Proof/Laws/Ops.lean ====
section
/-! SUPPORT. What the shared operations do, each said once: element reads and writes, the canonical
form, handshakes and draws, and the frame of a command. -/

namespace Sys2Proof.Machine

variable {α : Type}

/-! ### memOfList -/

@[simp] theorem memOfListFrom_length (k : Nat) (vs : List α) :
    (memOfListFrom k vs).length = vs.length := by
  induction vs generalizing k with
  | nil => rfl
  | cons v vs ih => simp [memOfListFrom, ih]

theorem memOfListFrom_map_fst (k : Nat) (vs : List α) :
    (memOfListFrom k vs).map Prod.fst = List.range' k vs.length := by
  induction vs generalizing k with
  | nil => rfl
  | cons v vs ih => simp [memOfListFrom, ih, List.range'_succ]

theorem memOfListFrom_map_snd (k : Nat) (vs : List α) :
    (memOfListFrom k vs).map Prod.snd = vs := by
  induction vs generalizing k with
  | nil => rfl
  | cons v vs ih => simp [memOfListFrom, ih]

/-- The indices of a filled space are `0 .. length - 1`. -/
@[simp] theorem memOfList_map_fst (vs : List α) :
    (memOfList vs).map Prod.fst = List.range vs.length := by
  simp [memOfList, memOfListFrom_map_fst, List.range_eq_range']

/-- The elements of a filled space are the listed values. -/
@[simp] theorem memOfList_map_snd (vs : List α) : (memOfList vs).map Prod.snd = vs :=
  memOfListFrom_map_snd 0 vs

theorem memRead_memOfListFrom (k : Nat) (vs : List α) (i : Nat) :
    memRead (memOfListFrom k vs) i = if k ≤ i then vs[i - k]? else none := by
  induction vs generalizing k with
  | nil => simp [memOfListFrom, memRead]
  | cons v vs ih =>
    simp only [memOfListFrom, memRead, ih]
    by_cases h : k = i
    · subst h; simp
    · by_cases hk : k ≤ i
      · have : i - k = (i - (k + 1)) + 1 := by omega
        have h2 : k + 1 ≤ i := by omega
        simp [h, hk, h2, this]
      · have h2 : ¬ k + 1 ≤ i := by omega
        simp [h, hk, h2]

/-- Reading a filled space. -/
@[simp] theorem memRead_memOfList (vs : List α) (i : Nat) :
    memRead (memOfList vs) i = vs[i]? := by
  simp [memOfList, memRead_memOfListFrom]

theorem mem_memOfListFrom {k : Nat} {vs : List α} {p : Nat × α} (h : p ∈ memOfListFrom k vs) :
    p.2 ∈ vs := by
  have := List.mem_map_of_mem (f := Prod.snd) h
  rwa [memOfListFrom_map_snd] at this

/-- An entry of a filled space holds one of the listed values. -/
theorem mem_memOfList {vs : List α} {p : Nat × α} (h : p ∈ memOfList vs) : p.2 ∈ vs :=
  mem_memOfListFrom h

/-! ### The canonical form -/

theorem memWfFrom_mono {lo lo' : Nat} {m : Mem α} (h : lo ≤ lo') (hm : memWfFrom lo' m = true) :
    memWfFrom lo m = true := by
  cases m with
  | nil => rfl
  | cons p m =>
    simp only [memWfFrom, Bool.and_eq_true, decide_eq_true_eq] at hm ⊢
    exact ⟨by omega, hm.2⟩

theorem memWfFrom_memOfListFrom (lo k : Nat) (h : lo ≤ k) (vs : List α) :
    memWfFrom lo (memOfListFrom k vs) = true := by
  induction vs generalizing lo k with
  | nil => rfl
  | cons v vs ih => simp [memOfListFrom, memWfFrom, h, ih]

/-- A filled space is canonical. -/
@[simp] theorem memWf_memOfList (vs : List α) : memWf (memOfList vs) = true :=
  memWfFrom_memOfListFrom 0 0 (Nat.le_refl 0) vs

/-- The empty space is canonical. -/
@[simp] theorem memWf_nil : memWf ([] : Mem α) = true := rfl

theorem memWfFrom_memWrite (lo : Nat) (m : Mem α) (k : Nat) (v : α) (hk : lo ≤ k)
    (h : memWfFrom lo m = true) : memWfFrom lo (memWrite m k v) = true := by
  induction m generalizing lo with
  | nil => simp [memWrite, memWfFrom, hk]
  | cons p m ih =>
    obtain ⟨j, u⟩ := p
    simp only [memWfFrom, Bool.and_eq_true, decide_eq_true_eq] at h
    simp only [memWrite]
    split
    · rename_i hlt
      simp only [memWfFrom, Bool.and_eq_true, decide_eq_true_eq]
      exact ⟨hk, by omega, h.2⟩
    · split
      · rename_i heq
        subst heq
        simp [memWfFrom, hk, h.2]
      · simp only [memWfFrom, Bool.and_eq_true, decide_eq_true_eq]
        exact ⟨h.1, ih (j + 1) (by omega) h.2⟩

/-- A write keeps the canonical form. -/
theorem memWf_memWrite {m : Mem α} (h : memWf m = true) (k : Nat) (v : α) :
    memWf (memWrite m k v) = true :=
  memWfFrom_memWrite 0 m k v (Nat.zero_le k) h

theorem memWfFrom_iff (lo : Nat) (m : Mem α) :
    memWfFrom lo m = true ↔ (∀ p ∈ m, lo ≤ p.1) ∧ (m.map Prod.fst).Pairwise (· < ·) := by
  induction m generalizing lo with
  | nil => simp [memWfFrom]
  | cons p m ih =>
    simp only [memWfFrom, Bool.and_eq_true, decide_eq_true_eq, ih, List.mem_cons,
      forall_eq_or_imp, List.map_cons, List.pairwise_cons, List.mem_map]
    constructor
    · rintro ⟨h, h', h''⟩
      refine ⟨⟨h, fun q hq => ?_⟩, ?_, h''⟩
      · have := h' q hq; omega
      · rintro _ ⟨q, hq, rfl⟩
        have := h' q hq; omega
    · rintro ⟨⟨h, _⟩, h', h''⟩
      exact ⟨h, fun q hq => h' _ ⟨q, hq, rfl⟩, h''⟩

/-- The canonical form says that the indices are strictly rising. -/
theorem memWf_iff (m : Mem α) : memWf m = true ↔ (m.map Prod.fst).Pairwise (· < ·) := by
  simp [memWf, memWfFrom_iff]

/-! ### Reading and writing -/

/-- A write is read back. -/
@[simp] theorem memRead_memWrite_same (m : Mem α) (k : Nat) (v : α) :
    memRead (memWrite m k v) k = some v := by
  induction m with
  | nil => simp [memWrite, memRead]
  | cons p m ih =>
    simp only [memWrite]
    split
    · simp [memRead]
    · split
      · simp [memRead]
      · rename_i h
        simp [memRead, Ne.symm h, ih]

/-- A write leaves every other element alone. -/
theorem memRead_memWrite_other (m : Mem α) (k i : Nat) (v : α) (h : i ≠ k) :
    memRead (memWrite m k v) i = memRead m i := by
  induction m with
  | nil => simp [memWrite, memRead, Ne.symm h]
  | cons p m ih =>
    simp only [memWrite]
    split
    · simp [memRead, Ne.symm h]
    · split
      · rename_i h'
        simp [memRead, Ne.symm h, ← h']
      · simp [memRead, ih]

/-- Writing an element that is listed lists no new index. -/
theorem memWrite_map_fst_of_mem {m : Mem α} (hw : memWf m = true) {k : Nat} (v : α)
    (hk : k ∈ m.map Prod.fst) : (memWrite m k v).map Prod.fst = m.map Prod.fst := by
  rw [memWf_iff] at hw
  induction m with
  | nil => simp at hk
  | cons p m ih =>
    simp only [List.map_cons, List.pairwise_cons, List.mem_cons] at hw hk
    simp only [memWrite]
    split
    · rename_i hlt
      rcases hk with rfl | hk
      · omega
      · have := hw.1 _ hk; omega
    · split
      · rename_i heq; simp [heq]
      · rename_i hne
        rcases hk with hk | hk
        · exact absurd hk hne
        · simp [ih hw.2 hk]

theorem memRead_isSome_iff (m : Mem α) (k : Nat) :
    (memRead m k).isSome = true ↔ k ∈ m.map Prod.fst := by
  induction m with
  | nil => simp [memRead]
  | cons p m ih =>
    simp only [memRead, List.map_cons, List.mem_cons]
    split
    · rename_i h; simp [h]
    · rename_i h; rw [ih]; simp [Ne.symm h]

/-- An element that is read is listed. -/
theorem mem_of_memRead {m : Mem α} {k : Nat} {v : α} (h : memRead m k = some v) : (k, v) ∈ m := by
  induction m with
  | nil => simp [memRead] at h
  | cons p m ih =>
    obtain ⟨j, u⟩ := p
    simp only [memRead] at h
    split at h
    · rename_i hj; simp_all
    · exact List.mem_cons_of_mem _ (ih h)

/-! ### collect and memReadRange -/

/-- `collect` answers exactly when every option holds a value. -/
theorem collect_eq_some {os : List (Option α)} {vs : List α} :
    collect os = some vs ↔ os = vs.map some := by
  induction os generalizing vs with
  | nil => cases vs <;> simp [collect]
  | cons o os ih =>
    cases o with
    | none => cases vs <;> simp [collect]
    | some a =>
      cases h : collect os with
      | none =>
        cases vs with
        | nil => simp [collect, h]
        | cons b vs =>
          simp only [collect, h, List.map_cons, List.cons.injEq, Option.some.injEq]
          constructor
          · intro hc; cases hc
          · rintro ⟨_, hos⟩
            have := (ih (vs := vs)).2 hos
            rw [h] at this; cases this
      | some as =>
        have hos := ih.1 h
        cases vs with
        | nil => simp [collect, h]
        | cons b vs =>
          simp only [collect, h, Option.some.injEq, List.cons.injEq, List.map_cons]
          constructor
          · rintro ⟨rfl, rfl⟩; exact ⟨rfl, hos⟩
          · rintro ⟨rfl, h2⟩
            refine ⟨rfl, ?_⟩
            have := (ih (vs := vs)).2 h2
            rw [h] at this; exact Option.some.inj this

theorem memReadRange_eq_some {m : Mem α} {n : Nat} {vs : List α} :
    memReadRange m n = some vs ↔ vs.length = n ∧ ∀ k, k < n → memRead m k = vs[k]? := by
  rw [memReadRange, collect_eq_some]
  constructor
  · intro h
    have hl : vs.length = n := by simpa using (congrArg List.length h).symm
    refine ⟨hl, fun k hk => ?_⟩
    have hk' := congrArg (fun l => l[k]?) h
    have hv : k < vs.length := by omega
    simpa [hk, hv] using hk'
  · rintro ⟨hl, h⟩
    apply List.ext_getElem? 
    intro k
    by_cases hk : k < n
    · have hv : k < vs.length := by omega
      simp [hk, h k hk, hv]
    · have hv : vs.length ≤ k := by omega
      simp [hv, not_lt.mp hk]

/-- A filled space is read whole. -/
@[simp] theorem memReadRange_memOfList (vs : List α) :
    memReadRange (memOfList vs) vs.length = some vs :=
  memReadRange_eq_some.2 ⟨rfl, fun k _ => memRead_memOfList vs k⟩

/-- A space is the one its indices and its elements give. -/
theorem eq_memOfListFrom (k : Nat) (m : Mem α) (h : m.map Prod.fst = List.range' k m.length) :
    m = memOfListFrom k (m.map Prod.snd) := by
  induction m generalizing k with
  | nil => rfl
  | cons p m ih =>
    simp only [List.map_cons, List.length_cons, List.range'_succ, List.cons.injEq] at h
    simp only [List.map_cons, memOfListFrom, ← h.1, List.cons.injEq, true_and]
    exact h.1 ▸ ih (k + 1) h.2

/-- A space that holds exactly the elements below `n` is read whole. -/
theorem memReadRange_of_keys {m : Mem α} {n : Nat} (h : m.map Prod.fst = List.range n) :
    memReadRange m n = some (m.map Prod.snd) := by
  have hn : m.length = n := by simpa using congrArg List.length h
  have hm : m = memOfList (m.map Prod.snd) :=
    eq_memOfListFrom 0 m (by rw [h, List.range_eq_range', hn])
  have := memReadRange_memOfList (m.map Prod.snd)
  rwa [← hm, List.length_map, hn] at this

theorem memReadRange_length {m : Mem α} {n : Nat} {vs : List α} (h : memReadRange m n = some vs) :
    vs.length = n := (memReadRange_eq_some.1 h).1

/-- A value read by `memReadRange` is an element of the space. -/
theorem exists_mem_of_memReadRange {m : Mem α} {n : Nat} {vs : List α}
    (h : memReadRange m n = some vs) {v : α} (hv : v ∈ vs) : ∃ k, (k, v) ∈ m := by
  obtain ⟨hl, hr⟩ := memReadRange_eq_some.1 h
  obtain ⟨k, hk, rfl⟩ := List.getElem_of_mem hv
  exact ⟨k, mem_of_memRead (by rw [hr k (by omega)]; simp [hk])⟩

/-! ### Handshakes and draws -/

@[simp] theorem serve_none (want : Nat) : serve none want = (want, none) := rfl

theorem serve_le (left : Option Nat) (want : Nat) : (serve left want).1 ≤ want := by
  cases left <;> simp [serve]

/-- A collaborator that answers that many handshakes answers them all. -/
theorem serve_eq_of_answers {left : Option Nat} {want : Nat} (h : ∀ k, left = some k → want ≤ k) :
    (serve left want).1 = want := by
  cases left with
  | none => rfl
  | some k => simp [serve, h k rfl]

@[simp] theorem drawMany_length (tape : List α) (free : Nat → α) (drawn count : Nat) :
    (drawMany tape free drawn count).1.length = count := by
  simp [drawMany]; omega

/-- The draws a tape fixes are the tape's. -/
theorem drawMany_getElem?_tape (tape : List α) (free : Nat → α) (drawn count k : Nat)
    (hk : k < tape.length) (hc : k < count) :
    (drawMany tape free drawn count).1[k]? = tape[k]? := by
  simp [drawMany, List.getElem?_append, hk, hc]

@[simp] theorem drawOne_cons (a : α) (r : List α) (free : Nat → α) (drawn : Nat) :
    drawOne (a :: r) free drawn = (a, r, drawn) := rfl

theorem signedBits_range (w : Nat) (hw : 1 ≤ w) (v : Int) :
    -(2 ^ (w - 1) : Int) ≤ signedBits w v ∧ signedBits w v < (2 ^ (w - 1) : Int) := by
  have hp : (2 : Int) ^ w = 2 * 2 ^ (w - 1) := by
    rw [← pow_succ']; congr 1; omega
  have hpos : (0 : Int) < 2 ^ (w - 1) := by positivity
  have hc : ((2 ^ w : Nat) : Int) = 2 * 2 ^ (w - 1) := by push_cast; exact hp
  have hn : 0 < 2 ^ w := by positivity
  unfold signedBits
  have h1 := Int.le_bmod (x := v) hn
  have h2 := Int.bmod_lt (x := v) hn
  rw [hc] at h1 h2
  omega

/-! ### The frame of a command -/

theorem accept_idle {s : State} (hm : s.mode = .idle) (hw : s.waiting = none)
    (f g : State → Host.Outcome State Fault Refusal) : accept s f g = f s := by
  simp [accept, hm, State.stuck, hw]

theorem accept_halted {s : State} (hm : s.mode = .halted)
    (f g : State → Host.Outcome State Fault Refusal) : accept s f g = g s := by
  simp [accept, hm]

theorem accept_busy {s : State} (h : s.cmdReady = false)
    (f g : State → Host.Outcome State Fault Refusal) : accept s f g = .next s := by
  cases hm : s.mode <;> simp_all [accept, State.cmdReady]

/-- Everything a command's frame can do. -/
theorem accept_cases (s : State) (f g : State → Host.Outcome State Fault Refusal) :
    (s.mode = .idle ∧ s.waiting = none ∧ accept s f g = f s) ∨
    (s.mode = .halted ∧ accept s f g = g s) ∨
    (s.cmdReady = false ∧ accept s f g = .next s) := by
  cases hm : s.mode <;> cases hw : s.waiting <;>
    simp [accept, hm, hw, State.cmdReady, State.stuck]

/-- Everything the end of a command can answer as a next state. -/
theorem finishCommand_next {op : BitVec 8} {st : BitVec 3} {r : RuleResult} {t : State}
    (h : finishCommand op st r = .next t) :
    (∃ s, r = .done s ∧ t = s.respond .ok 0#32) ∨
    (∃ c s, r = .raised c s ∧ t = takeFault c op st s) ∨
    (∃ who s, r = .stalled who s ∧ t = s.waitFor who) := by
  cases r <;> simp only [finishCommand, Host.Outcome.next.injEq, reduceCtorEq] at h
  · exact .inl ⟨_, rfl, h.symm⟩
  · exact .inr (.inl ⟨_, _, rfl, h.symm⟩)
  · exact .inr (.inr ⟨_, _, rfl, h.symm⟩)

/-- Everything a command over one rule can answer as a next state. -/
theorem runCommand_next {i : Instr} {st : BitVec 3} {rule : State → RuleResult} {s t : State}
    (h : runCommand i st rule s = .next t) :
    (s.cmdReady = false ∧ t = s) ∨
    (s.mode = .halted ∧ t = s.respond .refused s.fault.word) ∨
    (s.mode = .idle ∧ s.waiting = none ∧
      ((∃ u, rule s = .done u ∧ t = u.respond .ok 0#32) ∨
       (∃ c u, rule s = .raised c u ∧ t = takeFault c i.opcode st u) ∨
       (∃ who u, rule s = .stalled who u ∧ t = u.waitFor who))) := by
  rcases accept_cases s (fun s => finishCommand i.opcode st (rule s)) refuseCommand with
    ⟨hm, hw, he⟩ | ⟨hm, he⟩ | ⟨hc, he⟩
  · rw [runCommand, he] at h
    exact .inr (.inr ⟨hm, hw, finishCommand_next h⟩)
  · rw [runCommand, he, refuseCommand] at h
    exact .inr (.inl ⟨hm, by simpa using h.symm⟩)
  · rw [runCommand, he] at h
    exact .inl ⟨hc, by simpa using h.symm⟩

theorem runCommand_done {i : Instr} {st : BitVec 3} {rule : State → RuleResult} {s t : State}
    (hm : s.mode = .idle) (hw : s.waiting = none) (h : rule s = .done t) :
    runCommand i st rule s = .next (t.respond .ok 0#32) := by
  simp [runCommand, accept_idle hm hw, h, finishCommand]

theorem runCommand_raised {i : Instr} {st : BitVec 3} {rule : State → RuleResult} {s t : State}
    {c : Cause} (hm : s.mode = .idle) (hw : s.waiting = none) (h : rule s = .raised c t) :
    runCommand i st rule s = .next (takeFault c i.opcode st t) := by
  simp [runCommand, accept_idle hm hw, h, finishCommand]

theorem runCommand_stalled {i : Instr} {st : BitVec 3} {rule : State → RuleResult} {s t : State}
    {who : Collaborator} (hm : s.mode = .idle) (hw : s.waiting = none)
    (h : rule s = .stalled who t) :
    runCommand i st rule s = .next (t.waitFor who) := by
  simp [runCommand, accept_idle hm hw, h, finishCommand]

theorem runCommand_halted {i : Instr} {st : BitVec 3} {rule : State → RuleResult} {s : State}
    (hm : s.mode = .halted) :
    runCommand i st rule s = .next (s.respond .refused s.fault.word) := by
  simp [runCommand, accept_halted hm, refuseCommand]

end Sys2Proof.Machine
end

