-- ==== Sys2Proof/Laws/Exec.lean ====
section
/-! SUPPORT. Each command's meaning as the shared frame it runs in, and that frame in MODE IDLE and in
MODE HALTED. -/

namespace Sys2Proof.Machine

theorem exec_nop (s : State) : exec .nop s =
    accept s (fun s => .next (s.respond .ok 0#32)) (fun s => .next (s.respond .ok 0#32)) := rfl

theorem exec_capture (s : State) :
    exec .capture s = runCommand .capture Stage.capture.index captureStage s := rfl

theorem exec_rmdc (s : State) :
    exec .rmdc s = runCommand .rmdc Stage.rmdc.index rmdcStage s := rfl

theorem exec_xfexec (s : State) :
    exec .xfexec s = runCommand .xfexec Stage.xfexec.index xfexecStage s := rfl

theorem exec_map (s : State) : exec .map s = runCommand .map Stage.map.index mapStage s := rfl

theorem exec_render (s : State) :
    exec .render s = runCommand .render Stage.render.index renderStage s := rfl

theorem exec_flush (s : State) :
    exec .flush s = runCommand .flush Stage.flush.index flushStage s := rfl

theorem exec_frame (s : State) :
    exec .frame s = accept s (fun s => .next (s.startLoop .frame1)) refuseCommand := rfl

theorem exec_run (s : State) :
    exec .run s = accept s (fun s => .next (s.startLoop .run)) refuseCommand := rfl

theorem exec_xfinit (s : State) : exec .xfinit s = runCommand .xfinit noStage xfinitRule s := rfl

theorem exec_xfrel (s : State) : exec .xfrel s = runCommand .xfrel noStage xfrelRule s := rfl

/-- LD in a state that takes it: the checks, then the answer (48_load.md R291, R296). -/
theorem exec_ld_idle {s : State} (hm : s.mode = .idle) (hw : s.waiting = none) (sp ix : Nat) :
    exec (.ld sp ix) s =
      match loadElement s sp ix with
      | .ok v => .next (s.respond .ok v)
      | .error c => .next (takeFault c 0x20#8 noStage s) := by
  show execLd sp ix s = _
  rw [execLd, accept_idle hm hw]
  rfl

theorem exec_ld_halted {s : State} (hm : s.mode = .halted) (sp ix : Nat) :
    exec (.ld sp ix) s =
      match loadElement s sp ix with
      | .ok v => .next (s.respond .ok v)
      | .error _ => .next (s.respond .refused s.fault.word) := by
  show execLd sp ix s = _
  rw [execLd, accept_halted hm]
  rfl

end Sys2Proof.Machine
end

