-- ==== Sys2Proof/Laws/PerInstr.lean ====
section
/-! SUPPORT. The per-instruction family `Layout`: the fixed bits of a command's word are those of its
row of spec/opcode_table.json: the opcode byte, and the `zero` field. -/

namespace Sys2Proof.Laws.Layout

/-- The bits of a command's word that its format fixes to 0 (30_encoding.md R111, R112). -/
def zeroBits (i : Instr) (w : Word) : Nat :=
  match i with
  | .ld _ _ => (zeroFieldL w).toNat
  | .nop | .capture | .rmdc | .xfexec | .map | .render | .flush | .frame | .run | .xfinit
  | .xfrel => (zeroFieldZ w).toNat

/-- The encoded word of a command carries its row's opcode byte, and 0 in the `zero` field of its
format. -/
def Statement (i : Instr) : Prop := opField (encode i) = i.opcode ∧ zeroBits i (encode i) = 0

theorem nop : Statement .nop := ⟨rfl, rfl⟩
theorem capture : Statement .capture := ⟨rfl, rfl⟩
theorem rmdc : Statement .rmdc := ⟨rfl, rfl⟩
theorem xfexec : Statement .xfexec := ⟨rfl, rfl⟩
theorem map : Statement .map := ⟨rfl, rfl⟩
theorem render : Statement .render := ⟨rfl, rfl⟩
theorem flush : Statement .flush := ⟨rfl, rfl⟩
theorem frame : Statement .frame := ⟨rfl, rfl⟩
theorem run : Statement .run := ⟨rfl, rfl⟩
theorem xfinit : Statement .xfinit := ⟨rfl, rfl⟩
theorem xfrel : Statement .xfrel := ⟨rfl, rfl⟩

theorem ld (space index : Nat) : Statement (.ld space index) :=
  ⟨opField_append _ _ _ _, congrArg BitVec.toNat (zeroFieldL_append _ _ _ _)⟩

end Sys2Proof.Laws.Layout
end

