-- ==== Sys2Proof/Laws/State.lean ====
section
/-! SUPPORT. One lemma per field per named update of State, true by rfl: later proofs never unfold an
update. -/

namespace Sys2Proof.Machine

/-! ### State.record -/

@[simp] theorem State.record_cfg (s : State) (es : List Event) : (s.record es).cfg = s.cfg := rfl
@[simp] theorem State.record_mode (s : State) (es : List Event) : (s.record es).mode = s.mode := rfl
@[simp] theorem State.record_seq (s : State) (es : List Event) : (s.record es).seq = s.seq := rfl
@[simp] theorem State.record_waiting (s : State) (es : List Event) :
    (s.record es).waiting = s.waiting := rfl
@[simp] theorem State.record_sbCnt (s : State) (es : List Event) :
    (s.record es).sbCnt = s.sbCnt := rfl
@[simp] theorem State.record_inCnt (s : State) (es : List Event) :
    (s.record es).inCnt = s.inCnt := rfl
@[simp] theorem State.record_binCnt (s : State) (es : List Event) :
    (s.record es).binCnt = s.binCnt := rfl
@[simp] theorem State.record_sum (s : State) (es : List Event) : (s.record es).sum = s.sum := rfl
@[simp] theorem State.record_meanFx (s : State) (es : List Event) :
    (s.record es).meanFx = s.meanFx := rfl
@[simp] theorem State.record_zoomLevel (s : State) (es : List Event) :
    (s.record es).zoomLevel = s.zoomLevel := rfl
@[simp] theorem State.record_zsnap (s : State) (es : List Event) :
    (s.record es).zsnap = s.zsnap := rfl
@[simp] theorem State.record_gainLatch (s : State) (es : List Event) :
    (s.record es).gainLatch = s.gainLatch := rfl
@[simp] theorem State.record_xfHandle (s : State) (es : List Event) :
    (s.record es).xfHandle = s.xfHandle := rfl
@[simp] theorem State.record_lbl (s : State) (es : List Event) : (s.record es).lbl = s.lbl := rfl
@[simp] theorem State.record_fault (s : State) (es : List Event) :
    (s.record es).fault = s.fault := rfl
@[simp] theorem State.record_xfReady (s : State) (es : List Event) :
    (s.record es).xfReady = s.xfReady := rfl
@[simp] theorem State.record_colValid (s : State) (es : List Event) :
    (s.record es).colValid = s.colValid := rfl
@[simp] theorem State.record_dfValid (s : State) (es : List Event) :
    (s.record es).dfValid = s.dfValid := rfl
@[simp] theorem State.record_sb (s : State) (es : List Event) : (s.record es).sb = s.sb := rfl
@[simp] theorem State.record_cs (s : State) (es : List Event) : (s.record es).cs = s.cs := rfl
@[simp] theorem State.record_binRe (s : State) (es : List Event) :
    (s.record es).binRe = s.binRe := rfl
@[simp] theorem State.record_binIm (s : State) (es : List Event) :
    (s.record es).binIm = s.binIm := rfl
@[simp] theorem State.record_colH (s : State) (es : List Event) : (s.record es).colH = s.colH := rfl
@[simp] theorem State.record_colBin (s : State) (es : List Event) :
    (s.record es).colBin = s.colBin := rfl
@[simp] theorem State.record_df (s : State) (es : List Event) : (s.record es).df = s.df := rfl
@[simp] theorem State.record_txt (s : State) (es : List Event) : (s.record es).txt = s.txt := rfl
@[simp] theorem State.record_dev (s : State) (es : List Event) : (s.record es).dev = s.dev := rfl
@[simp] theorem State.record_history (s : State) (es : List Event) :
    (s.record es).history = s.history ++ es := rfl
@[simp] theorem State.record_env (s : State) (es : List Event) : (s.record es).env = s.env := rfl

/-! ### State.respond -/

@[simp] theorem State.respond_cfg (s : State) (st : Status) (d : Word) :
    (s.respond st d).cfg = s.cfg := rfl
@[simp] theorem State.respond_mode (s : State) (st : Status) (d : Word) :
    (s.respond st d).mode = s.mode := rfl
@[simp] theorem State.respond_seq (s : State) (st : Status) (d : Word) :
    (s.respond st d).seq = s.seq := rfl
@[simp] theorem State.respond_waiting (s : State) (st : Status) (d : Word) :
    (s.respond st d).waiting = s.waiting := rfl
@[simp] theorem State.respond_sbCnt (s : State) (st : Status) (d : Word) :
    (s.respond st d).sbCnt = s.sbCnt := rfl
@[simp] theorem State.respond_inCnt (s : State) (st : Status) (d : Word) :
    (s.respond st d).inCnt = s.inCnt := rfl
@[simp] theorem State.respond_binCnt (s : State) (st : Status) (d : Word) :
    (s.respond st d).binCnt = s.binCnt := rfl
@[simp] theorem State.respond_sum (s : State) (st : Status) (d : Word) :
    (s.respond st d).sum = s.sum := rfl
@[simp] theorem State.respond_meanFx (s : State) (st : Status) (d : Word) :
    (s.respond st d).meanFx = s.meanFx := rfl
@[simp] theorem State.respond_zoomLevel (s : State) (st : Status) (d : Word) :
    (s.respond st d).zoomLevel = s.zoomLevel := rfl
@[simp] theorem State.respond_zsnap (s : State) (st : Status) (d : Word) :
    (s.respond st d).zsnap = s.zsnap := rfl
@[simp] theorem State.respond_gainLatch (s : State) (st : Status) (d : Word) :
    (s.respond st d).gainLatch = s.gainLatch := rfl
@[simp] theorem State.respond_xfHandle (s : State) (st : Status) (d : Word) :
    (s.respond st d).xfHandle = s.xfHandle := rfl
@[simp] theorem State.respond_lbl (s : State) (st : Status) (d : Word) :
    (s.respond st d).lbl = s.lbl := rfl
@[simp] theorem State.respond_fault (s : State) (st : Status) (d : Word) :
    (s.respond st d).fault = s.fault := rfl
@[simp] theorem State.respond_xfReady (s : State) (st : Status) (d : Word) :
    (s.respond st d).xfReady = s.xfReady := rfl
@[simp] theorem State.respond_colValid (s : State) (st : Status) (d : Word) :
    (s.respond st d).colValid = s.colValid := rfl
@[simp] theorem State.respond_dfValid (s : State) (st : Status) (d : Word) :
    (s.respond st d).dfValid = s.dfValid := rfl
@[simp] theorem State.respond_sb (s : State) (st : Status) (d : Word) :
    (s.respond st d).sb = s.sb := rfl
@[simp] theorem State.respond_cs (s : State) (st : Status) (d : Word) :
    (s.respond st d).cs = s.cs := rfl
@[simp] theorem State.respond_binRe (s : State) (st : Status) (d : Word) :
    (s.respond st d).binRe = s.binRe := rfl
@[simp] theorem State.respond_binIm (s : State) (st : Status) (d : Word) :
    (s.respond st d).binIm = s.binIm := rfl
@[simp] theorem State.respond_colH (s : State) (st : Status) (d : Word) :
    (s.respond st d).colH = s.colH := rfl
@[simp] theorem State.respond_colBin (s : State) (st : Status) (d : Word) :
    (s.respond st d).colBin = s.colBin := rfl
@[simp] theorem State.respond_df (s : State) (st : Status) (d : Word) :
    (s.respond st d).df = s.df := rfl
@[simp] theorem State.respond_txt (s : State) (st : Status) (d : Word) :
    (s.respond st d).txt = s.txt := rfl
@[simp] theorem State.respond_dev (s : State) (st : Status) (d : Word) :
    (s.respond st d).dev = s.dev := rfl
@[simp] theorem State.respond_history (s : State) (st : Status) (d : Word) :
    (s.respond st d).history = s.history ++ [.respond st d] := rfl
@[simp] theorem State.respond_env (s : State) (st : Status) (d : Word) :
    (s.respond st d).env = s.env := rfl

/-! ### State.clearColumns -/

@[simp] theorem State.clearColumns_cfg (s : State) : s.clearColumns.cfg = s.cfg := rfl
@[simp] theorem State.clearColumns_mode (s : State) : s.clearColumns.mode = s.mode := rfl
@[simp] theorem State.clearColumns_seq (s : State) : s.clearColumns.seq = s.seq := rfl
@[simp] theorem State.clearColumns_waiting (s : State) : s.clearColumns.waiting = s.waiting := rfl
@[simp] theorem State.clearColumns_sbCnt (s : State) : s.clearColumns.sbCnt = s.sbCnt := rfl
@[simp] theorem State.clearColumns_inCnt (s : State) : s.clearColumns.inCnt = s.inCnt := rfl
@[simp] theorem State.clearColumns_binCnt (s : State) : s.clearColumns.binCnt = s.binCnt := rfl
@[simp] theorem State.clearColumns_sum (s : State) : s.clearColumns.sum = s.sum := rfl
@[simp] theorem State.clearColumns_meanFx (s : State) : s.clearColumns.meanFx = s.meanFx := rfl
@[simp] theorem State.clearColumns_zoomLevel (s : State) :
    s.clearColumns.zoomLevel = s.zoomLevel := rfl
@[simp] theorem State.clearColumns_zsnap (s : State) : s.clearColumns.zsnap = s.zsnap := rfl
@[simp] theorem State.clearColumns_gainLatch (s : State) :
    s.clearColumns.gainLatch = s.gainLatch := rfl
@[simp] theorem State.clearColumns_xfHandle (s : State) :
    s.clearColumns.xfHandle = s.xfHandle := rfl
@[simp] theorem State.clearColumns_lbl (s : State) : s.clearColumns.lbl = s.lbl := rfl
@[simp] theorem State.clearColumns_fault (s : State) : s.clearColumns.fault = s.fault := rfl
@[simp] theorem State.clearColumns_xfReady (s : State) : s.clearColumns.xfReady = s.xfReady := rfl
@[simp] theorem State.clearColumns_colValid (s : State) : s.clearColumns.colValid = false := rfl
@[simp] theorem State.clearColumns_dfValid (s : State) : s.clearColumns.dfValid = s.dfValid := rfl
@[simp] theorem State.clearColumns_sb (s : State) : s.clearColumns.sb = s.sb := rfl
@[simp] theorem State.clearColumns_cs (s : State) : s.clearColumns.cs = s.cs := rfl
@[simp] theorem State.clearColumns_binRe (s : State) : s.clearColumns.binRe = s.binRe := rfl
@[simp] theorem State.clearColumns_binIm (s : State) : s.clearColumns.binIm = s.binIm := rfl
@[simp] theorem State.clearColumns_colH (s : State) : s.clearColumns.colH = [] := rfl
@[simp] theorem State.clearColumns_colBin (s : State) : s.clearColumns.colBin = [] := rfl
@[simp] theorem State.clearColumns_df (s : State) : s.clearColumns.df = s.df := rfl
@[simp] theorem State.clearColumns_txt (s : State) : s.clearColumns.txt = s.txt := rfl
@[simp] theorem State.clearColumns_dev (s : State) : s.clearColumns.dev = s.dev := rfl
@[simp] theorem State.clearColumns_history (s : State) : s.clearColumns.history = s.history := rfl
@[simp] theorem State.clearColumns_env (s : State) : s.clearColumns.env = s.env := rfl

/-! ### State.clearBins -/

@[simp] theorem State.clearBins_cfg (s : State) : s.clearBins.cfg = s.cfg := rfl
@[simp] theorem State.clearBins_mode (s : State) : s.clearBins.mode = s.mode := rfl
@[simp] theorem State.clearBins_seq (s : State) : s.clearBins.seq = s.seq := rfl
@[simp] theorem State.clearBins_waiting (s : State) : s.clearBins.waiting = s.waiting := rfl
@[simp] theorem State.clearBins_sbCnt (s : State) : s.clearBins.sbCnt = s.sbCnt := rfl
@[simp] theorem State.clearBins_inCnt (s : State) : s.clearBins.inCnt = s.inCnt := rfl
@[simp] theorem State.clearBins_binCnt (s : State) : s.clearBins.binCnt = 0 := rfl
@[simp] theorem State.clearBins_sum (s : State) : s.clearBins.sum = s.sum := rfl
@[simp] theorem State.clearBins_meanFx (s : State) : s.clearBins.meanFx = s.meanFx := rfl
@[simp] theorem State.clearBins_zoomLevel (s : State) : s.clearBins.zoomLevel = s.zoomLevel := rfl
@[simp] theorem State.clearBins_zsnap (s : State) : s.clearBins.zsnap = s.zsnap := rfl
@[simp] theorem State.clearBins_gainLatch (s : State) : s.clearBins.gainLatch = s.gainLatch := rfl
@[simp] theorem State.clearBins_xfHandle (s : State) : s.clearBins.xfHandle = s.xfHandle := rfl
@[simp] theorem State.clearBins_lbl (s : State) : s.clearBins.lbl = s.lbl := rfl
@[simp] theorem State.clearBins_fault (s : State) : s.clearBins.fault = s.fault := rfl
@[simp] theorem State.clearBins_xfReady (s : State) : s.clearBins.xfReady = s.xfReady := rfl
@[simp] theorem State.clearBins_colValid (s : State) : s.clearBins.colValid = false := rfl
@[simp] theorem State.clearBins_dfValid (s : State) : s.clearBins.dfValid = s.dfValid := rfl
@[simp] theorem State.clearBins_sb (s : State) : s.clearBins.sb = s.sb := rfl
@[simp] theorem State.clearBins_cs (s : State) : s.clearBins.cs = s.cs := rfl
@[simp] theorem State.clearBins_binRe (s : State) : s.clearBins.binRe = [] := rfl
@[simp] theorem State.clearBins_binIm (s : State) : s.clearBins.binIm = [] := rfl
@[simp] theorem State.clearBins_colH (s : State) : s.clearBins.colH = [] := rfl
@[simp] theorem State.clearBins_colBin (s : State) : s.clearBins.colBin = [] := rfl
@[simp] theorem State.clearBins_df (s : State) : s.clearBins.df = s.df := rfl
@[simp] theorem State.clearBins_txt (s : State) : s.clearBins.txt = s.txt := rfl
@[simp] theorem State.clearBins_dev (s : State) : s.clearBins.dev = s.dev := rfl
@[simp] theorem State.clearBins_history (s : State) : s.clearBins.history = s.history := rfl
@[simp] theorem State.clearBins_env (s : State) : s.clearBins.env = s.env := rfl

/-! ### State.clearCs -/

@[simp] theorem State.clearCs_cfg (s : State) : s.clearCs.cfg = s.cfg := rfl
@[simp] theorem State.clearCs_mode (s : State) : s.clearCs.mode = s.mode := rfl
@[simp] theorem State.clearCs_seq (s : State) : s.clearCs.seq = s.seq := rfl
@[simp] theorem State.clearCs_waiting (s : State) : s.clearCs.waiting = s.waiting := rfl
@[simp] theorem State.clearCs_sbCnt (s : State) : s.clearCs.sbCnt = s.sbCnt := rfl
@[simp] theorem State.clearCs_inCnt (s : State) : s.clearCs.inCnt = 0 := rfl
@[simp] theorem State.clearCs_binCnt (s : State) : s.clearCs.binCnt = 0 := rfl
@[simp] theorem State.clearCs_sum (s : State) : s.clearCs.sum = s.sum := rfl
@[simp] theorem State.clearCs_meanFx (s : State) : s.clearCs.meanFx = s.meanFx := rfl
@[simp] theorem State.clearCs_zoomLevel (s : State) : s.clearCs.zoomLevel = s.zoomLevel := rfl
@[simp] theorem State.clearCs_zsnap (s : State) : s.clearCs.zsnap = s.zsnap := rfl
@[simp] theorem State.clearCs_gainLatch (s : State) : s.clearCs.gainLatch = s.gainLatch := rfl
@[simp] theorem State.clearCs_xfHandle (s : State) : s.clearCs.xfHandle = s.xfHandle := rfl
@[simp] theorem State.clearCs_lbl (s : State) : s.clearCs.lbl = s.lbl := rfl
@[simp] theorem State.clearCs_fault (s : State) : s.clearCs.fault = s.fault := rfl
@[simp] theorem State.clearCs_xfReady (s : State) : s.clearCs.xfReady = s.xfReady := rfl
@[simp] theorem State.clearCs_colValid (s : State) : s.clearCs.colValid = false := rfl
@[simp] theorem State.clearCs_dfValid (s : State) : s.clearCs.dfValid = s.dfValid := rfl
@[simp] theorem State.clearCs_sb (s : State) : s.clearCs.sb = s.sb := rfl
@[simp] theorem State.clearCs_cs (s : State) : s.clearCs.cs = [] := rfl
@[simp] theorem State.clearCs_binRe (s : State) : s.clearCs.binRe = [] := rfl
@[simp] theorem State.clearCs_binIm (s : State) : s.clearCs.binIm = [] := rfl
@[simp] theorem State.clearCs_colH (s : State) : s.clearCs.colH = [] := rfl
@[simp] theorem State.clearCs_colBin (s : State) : s.clearCs.colBin = [] := rfl
@[simp] theorem State.clearCs_df (s : State) : s.clearCs.df = s.df := rfl
@[simp] theorem State.clearCs_txt (s : State) : s.clearCs.txt = s.txt := rfl
@[simp] theorem State.clearCs_dev (s : State) : s.clearCs.dev = s.dev := rfl
@[simp] theorem State.clearCs_history (s : State) : s.clearCs.history = s.history := rfl
@[simp] theorem State.clearCs_env (s : State) : s.clearCs.env = s.env := rfl

/-! ### State.clearSb -/

@[simp] theorem State.clearSb_cfg (s : State) : s.clearSb.cfg = s.cfg := rfl
@[simp] theorem State.clearSb_mode (s : State) : s.clearSb.mode = s.mode := rfl
@[simp] theorem State.clearSb_seq (s : State) : s.clearSb.seq = s.seq := rfl
@[simp] theorem State.clearSb_waiting (s : State) : s.clearSb.waiting = s.waiting := rfl
@[simp] theorem State.clearSb_sbCnt (s : State) : s.clearSb.sbCnt = 0 := rfl
@[simp] theorem State.clearSb_inCnt (s : State) : s.clearSb.inCnt = 0 := rfl
@[simp] theorem State.clearSb_binCnt (s : State) : s.clearSb.binCnt = 0 := rfl
@[simp] theorem State.clearSb_sum (s : State) : s.clearSb.sum = s.sum := rfl
@[simp] theorem State.clearSb_meanFx (s : State) : s.clearSb.meanFx = s.meanFx := rfl
@[simp] theorem State.clearSb_zoomLevel (s : State) : s.clearSb.zoomLevel = s.zoomLevel := rfl
@[simp] theorem State.clearSb_zsnap (s : State) : s.clearSb.zsnap = s.zsnap := rfl
@[simp] theorem State.clearSb_gainLatch (s : State) : s.clearSb.gainLatch = s.gainLatch := rfl
@[simp] theorem State.clearSb_xfHandle (s : State) : s.clearSb.xfHandle = s.xfHandle := rfl
@[simp] theorem State.clearSb_lbl (s : State) : s.clearSb.lbl = s.lbl := rfl
@[simp] theorem State.clearSb_fault (s : State) : s.clearSb.fault = s.fault := rfl
@[simp] theorem State.clearSb_xfReady (s : State) : s.clearSb.xfReady = s.xfReady := rfl
@[simp] theorem State.clearSb_colValid (s : State) : s.clearSb.colValid = false := rfl
@[simp] theorem State.clearSb_dfValid (s : State) : s.clearSb.dfValid = s.dfValid := rfl
@[simp] theorem State.clearSb_sb (s : State) : s.clearSb.sb = [] := rfl
@[simp] theorem State.clearSb_cs (s : State) : s.clearSb.cs = [] := rfl
@[simp] theorem State.clearSb_binRe (s : State) : s.clearSb.binRe = [] := rfl
@[simp] theorem State.clearSb_binIm (s : State) : s.clearSb.binIm = [] := rfl
@[simp] theorem State.clearSb_colH (s : State) : s.clearSb.colH = [] := rfl
@[simp] theorem State.clearSb_colBin (s : State) : s.clearSb.colBin = [] := rfl
@[simp] theorem State.clearSb_df (s : State) : s.clearSb.df = s.df := rfl
@[simp] theorem State.clearSb_txt (s : State) : s.clearSb.txt = s.txt := rfl
@[simp] theorem State.clearSb_dev (s : State) : s.clearSb.dev = s.dev := rfl
@[simp] theorem State.clearSb_history (s : State) : s.clearSb.history = s.history := rfl
@[simp] theorem State.clearSb_env (s : State) : s.clearSb.env = s.env := rfl

/-! ### takeFault -/

@[simp] theorem takeFault_cfg (c : Cause) (op : BitVec 8) (st : BitVec 3) (s : State) :
    (takeFault c op st s).cfg = s.cfg := rfl
@[simp] theorem takeFault_mode (c : Cause) (op : BitVec 8) (st : BitVec 3) (s : State) :
    (takeFault c op st s).mode = .halted := rfl
@[simp] theorem takeFault_seq (c : Cause) (op : BitVec 8) (st : BitVec 3) (s : State) :
    (takeFault c op st s).seq = s.seq := rfl
@[simp] theorem takeFault_waiting (c : Cause) (op : BitVec 8) (st : BitVec 3) (s : State) :
    (takeFault c op st s).waiting = s.waiting := rfl
@[simp] theorem takeFault_sbCnt (c : Cause) (op : BitVec 8) (st : BitVec 3) (s : State) :
    (takeFault c op st s).sbCnt = s.sbCnt := rfl
@[simp] theorem takeFault_inCnt (c : Cause) (op : BitVec 8) (st : BitVec 3) (s : State) :
    (takeFault c op st s).inCnt = s.inCnt := rfl
@[simp] theorem takeFault_binCnt (c : Cause) (op : BitVec 8) (st : BitVec 3) (s : State) :
    (takeFault c op st s).binCnt = s.binCnt := rfl
@[simp] theorem takeFault_sum (c : Cause) (op : BitVec 8) (st : BitVec 3) (s : State) :
    (takeFault c op st s).sum = s.sum := rfl
@[simp] theorem takeFault_meanFx (c : Cause) (op : BitVec 8) (st : BitVec 3) (s : State) :
    (takeFault c op st s).meanFx = s.meanFx := rfl
@[simp] theorem takeFault_zoomLevel (c : Cause) (op : BitVec 8) (st : BitVec 3) (s : State) :
    (takeFault c op st s).zoomLevel = s.zoomLevel := rfl
@[simp] theorem takeFault_zsnap (c : Cause) (op : BitVec 8) (st : BitVec 3) (s : State) :
    (takeFault c op st s).zsnap = s.zsnap := rfl
@[simp] theorem takeFault_gainLatch (c : Cause) (op : BitVec 8) (st : BitVec 3) (s : State) :
    (takeFault c op st s).gainLatch = s.gainLatch := rfl
@[simp] theorem takeFault_xfHandle (c : Cause) (op : BitVec 8) (st : BitVec 3) (s : State) :
    (takeFault c op st s).xfHandle = s.xfHandle := rfl
@[simp] theorem takeFault_lbl (c : Cause) (op : BitVec 8) (st : BitVec 3) (s : State) :
    (takeFault c op st s).lbl = s.lbl := rfl
@[simp] theorem takeFault_fault (c : Cause) (op : BitVec 8) (st : BitVec 3) (s : State) :
    (takeFault c op st s).fault = ⟨c.code, op, st⟩ := rfl
@[simp] theorem takeFault_xfReady (c : Cause) (op : BitVec 8) (st : BitVec 3) (s : State) :
    (takeFault c op st s).xfReady = s.xfReady := rfl
@[simp] theorem takeFault_colValid (c : Cause) (op : BitVec 8) (st : BitVec 3) (s : State) :
    (takeFault c op st s).colValid = s.colValid := rfl
@[simp] theorem takeFault_dfValid (c : Cause) (op : BitVec 8) (st : BitVec 3) (s : State) :
    (takeFault c op st s).dfValid = s.dfValid := rfl
@[simp] theorem takeFault_sb (c : Cause) (op : BitVec 8) (st : BitVec 3) (s : State) :
    (takeFault c op st s).sb = s.sb := rfl
@[simp] theorem takeFault_cs (c : Cause) (op : BitVec 8) (st : BitVec 3) (s : State) :
    (takeFault c op st s).cs = s.cs := rfl
@[simp] theorem takeFault_binRe (c : Cause) (op : BitVec 8) (st : BitVec 3) (s : State) :
    (takeFault c op st s).binRe = s.binRe := rfl
@[simp] theorem takeFault_binIm (c : Cause) (op : BitVec 8) (st : BitVec 3) (s : State) :
    (takeFault c op st s).binIm = s.binIm := rfl
@[simp] theorem takeFault_colH (c : Cause) (op : BitVec 8) (st : BitVec 3) (s : State) :
    (takeFault c op st s).colH = s.colH := rfl
@[simp] theorem takeFault_colBin (c : Cause) (op : BitVec 8) (st : BitVec 3) (s : State) :
    (takeFault c op st s).colBin = s.colBin := rfl
@[simp] theorem takeFault_df (c : Cause) (op : BitVec 8) (st : BitVec 3) (s : State) :
    (takeFault c op st s).df = s.df := rfl
@[simp] theorem takeFault_txt (c : Cause) (op : BitVec 8) (st : BitVec 3) (s : State) :
    (takeFault c op st s).txt = s.txt := rfl
@[simp] theorem takeFault_dev (c : Cause) (op : BitVec 8) (st : BitVec 3) (s : State) :
    (takeFault c op st s).dev = s.dev := rfl
@[simp] theorem takeFault_history (c : Cause) (op : BitVec 8) (st : BitVec 3) (s : State) :
    (takeFault c op st s).history = s.history ++ [.respond .fault (FaultReg.word ⟨c.code, op, st⟩)] := rfl
@[simp] theorem takeFault_env (c : Cause) (op : BitVec 8) (st : BitVec 3) (s : State) :
    (takeFault c op st s).env = s.env := rfl

/-! ### zoomStep -/

@[simp] theorem zoomStep_cfg (s : State) : (zoomStep s).cfg = s.cfg := rfl
@[simp] theorem zoomStep_mode (s : State) : (zoomStep s).mode = s.mode := rfl
@[simp] theorem zoomStep_seq (s : State) : (zoomStep s).seq = s.seq := rfl
@[simp] theorem zoomStep_waiting (s : State) : (zoomStep s).waiting = s.waiting := rfl
@[simp] theorem zoomStep_sbCnt (s : State) : (zoomStep s).sbCnt = s.sbCnt := rfl
@[simp] theorem zoomStep_inCnt (s : State) : (zoomStep s).inCnt = s.inCnt := rfl
@[simp] theorem zoomStep_binCnt (s : State) : (zoomStep s).binCnt = s.binCnt := rfl
@[simp] theorem zoomStep_sum (s : State) : (zoomStep s).sum = s.sum := rfl
@[simp] theorem zoomStep_meanFx (s : State) : (zoomStep s).meanFx = s.meanFx := rfl
@[simp] theorem zoomStep_zoomLevel (s : State) :
    (zoomStep s).zoomLevel = zoomNext s.cfg s.zoomLevel := rfl
@[simp] theorem zoomStep_zsnap (s : State) : (zoomStep s).zsnap = s.zsnap := rfl
@[simp] theorem zoomStep_gainLatch (s : State) : (zoomStep s).gainLatch = s.gainLatch := rfl
@[simp] theorem zoomStep_xfHandle (s : State) : (zoomStep s).xfHandle = s.xfHandle := rfl
@[simp] theorem zoomStep_lbl (s : State) : (zoomStep s).lbl = s.lbl := rfl
@[simp] theorem zoomStep_fault (s : State) : (zoomStep s).fault = s.fault := rfl
@[simp] theorem zoomStep_xfReady (s : State) : (zoomStep s).xfReady = s.xfReady := rfl
@[simp] theorem zoomStep_colValid (s : State) : (zoomStep s).colValid = s.colValid := rfl
@[simp] theorem zoomStep_dfValid (s : State) : (zoomStep s).dfValid = s.dfValid := rfl
@[simp] theorem zoomStep_sb (s : State) : (zoomStep s).sb = s.sb := rfl
@[simp] theorem zoomStep_cs (s : State) : (zoomStep s).cs = s.cs := rfl
@[simp] theorem zoomStep_binRe (s : State) : (zoomStep s).binRe = s.binRe := rfl
@[simp] theorem zoomStep_binIm (s : State) : (zoomStep s).binIm = s.binIm := rfl
@[simp] theorem zoomStep_colH (s : State) : (zoomStep s).colH = s.colH := rfl
@[simp] theorem zoomStep_colBin (s : State) : (zoomStep s).colBin = s.colBin := rfl
@[simp] theorem zoomStep_df (s : State) : (zoomStep s).df = s.df := rfl
@[simp] theorem zoomStep_txt (s : State) : (zoomStep s).txt = s.txt := rfl
@[simp] theorem zoomStep_dev (s : State) : (zoomStep s).dev = s.dev := rfl
@[simp] theorem zoomStep_history (s : State) :
    (zoomStep s).history = s.history ++ [.zoomEvent] := rfl
@[simp] theorem zoomStep_env (s : State) : (zoomStep s).env = s.env := rfl

/-! ### State.withEnv -/

@[simp] theorem State.withEnv_cfg (s : State) (e : Env) : (s.withEnv e).cfg = s.cfg := rfl
@[simp] theorem State.withEnv_mode (s : State) (e : Env) : (s.withEnv e).mode = s.mode := rfl
@[simp] theorem State.withEnv_seq (s : State) (e : Env) : (s.withEnv e).seq = s.seq := rfl
@[simp] theorem State.withEnv_waiting (s : State) (e : Env) :
    (s.withEnv e).waiting = s.waiting := rfl
@[simp] theorem State.withEnv_sbCnt (s : State) (e : Env) : (s.withEnv e).sbCnt = s.sbCnt := rfl
@[simp] theorem State.withEnv_inCnt (s : State) (e : Env) : (s.withEnv e).inCnt = s.inCnt := rfl
@[simp] theorem State.withEnv_binCnt (s : State) (e : Env) : (s.withEnv e).binCnt = s.binCnt := rfl
@[simp] theorem State.withEnv_sum (s : State) (e : Env) : (s.withEnv e).sum = s.sum := rfl
@[simp] theorem State.withEnv_meanFx (s : State) (e : Env) : (s.withEnv e).meanFx = s.meanFx := rfl
@[simp] theorem State.withEnv_zoomLevel (s : State) (e : Env) :
    (s.withEnv e).zoomLevel = s.zoomLevel := rfl
@[simp] theorem State.withEnv_zsnap (s : State) (e : Env) : (s.withEnv e).zsnap = s.zsnap := rfl
@[simp] theorem State.withEnv_gainLatch (s : State) (e : Env) :
    (s.withEnv e).gainLatch = s.gainLatch := rfl
@[simp] theorem State.withEnv_xfHandle (s : State) (e : Env) :
    (s.withEnv e).xfHandle = s.xfHandle := rfl
@[simp] theorem State.withEnv_lbl (s : State) (e : Env) : (s.withEnv e).lbl = s.lbl := rfl
@[simp] theorem State.withEnv_fault (s : State) (e : Env) : (s.withEnv e).fault = s.fault := rfl
@[simp] theorem State.withEnv_xfReady (s : State) (e : Env) :
    (s.withEnv e).xfReady = s.xfReady := rfl
@[simp] theorem State.withEnv_colValid (s : State) (e : Env) :
    (s.withEnv e).colValid = s.colValid := rfl
@[simp] theorem State.withEnv_dfValid (s : State) (e : Env) :
    (s.withEnv e).dfValid = s.dfValid := rfl
@[simp] theorem State.withEnv_sb (s : State) (e : Env) : (s.withEnv e).sb = s.sb := rfl
@[simp] theorem State.withEnv_cs (s : State) (e : Env) : (s.withEnv e).cs = s.cs := rfl
@[simp] theorem State.withEnv_binRe (s : State) (e : Env) : (s.withEnv e).binRe = s.binRe := rfl
@[simp] theorem State.withEnv_binIm (s : State) (e : Env) : (s.withEnv e).binIm = s.binIm := rfl
@[simp] theorem State.withEnv_colH (s : State) (e : Env) : (s.withEnv e).colH = s.colH := rfl
@[simp] theorem State.withEnv_colBin (s : State) (e : Env) : (s.withEnv e).colBin = s.colBin := rfl
@[simp] theorem State.withEnv_df (s : State) (e : Env) : (s.withEnv e).df = s.df := rfl
@[simp] theorem State.withEnv_txt (s : State) (e : Env) : (s.withEnv e).txt = s.txt := rfl
@[simp] theorem State.withEnv_dev (s : State) (e : Env) : (s.withEnv e).dev = s.dev := rfl
@[simp] theorem State.withEnv_history (s : State) (e : Env) :
    (s.withEnv e).history = s.history := rfl
@[simp] theorem State.withEnv_env (s : State) (e : Env) : (s.withEnv e).env = e := rfl

/-! ### State.waitFor -/

@[simp] theorem State.waitFor_cfg (s : State) (who : Collaborator) :
    (s.waitFor who).cfg = s.cfg := rfl
@[simp] theorem State.waitFor_mode (s : State) (who : Collaborator) :
    (s.waitFor who).mode = s.mode := rfl
@[simp] theorem State.waitFor_seq (s : State) (who : Collaborator) :
    (s.waitFor who).seq = s.seq := rfl
@[simp] theorem State.waitFor_waiting (s : State) (who : Collaborator) :
    (s.waitFor who).waiting = some who := rfl
@[simp] theorem State.waitFor_sbCnt (s : State) (who : Collaborator) :
    (s.waitFor who).sbCnt = s.sbCnt := rfl
@[simp] theorem State.waitFor_inCnt (s : State) (who : Collaborator) :
    (s.waitFor who).inCnt = s.inCnt := rfl
@[simp] theorem State.waitFor_binCnt (s : State) (who : Collaborator) :
    (s.waitFor who).binCnt = s.binCnt := rfl
@[simp] theorem State.waitFor_sum (s : State) (who : Collaborator) :
    (s.waitFor who).sum = s.sum := rfl
@[simp] theorem State.waitFor_meanFx (s : State) (who : Collaborator) :
    (s.waitFor who).meanFx = s.meanFx := rfl
@[simp] theorem State.waitFor_zoomLevel (s : State) (who : Collaborator) :
    (s.waitFor who).zoomLevel = s.zoomLevel := rfl
@[simp] theorem State.waitFor_zsnap (s : State) (who : Collaborator) :
    (s.waitFor who).zsnap = s.zsnap := rfl
@[simp] theorem State.waitFor_gainLatch (s : State) (who : Collaborator) :
    (s.waitFor who).gainLatch = s.gainLatch := rfl
@[simp] theorem State.waitFor_xfHandle (s : State) (who : Collaborator) :
    (s.waitFor who).xfHandle = s.xfHandle := rfl
@[simp] theorem State.waitFor_lbl (s : State) (who : Collaborator) :
    (s.waitFor who).lbl = s.lbl := rfl
@[simp] theorem State.waitFor_fault (s : State) (who : Collaborator) :
    (s.waitFor who).fault = s.fault := rfl
@[simp] theorem State.waitFor_xfReady (s : State) (who : Collaborator) :
    (s.waitFor who).xfReady = s.xfReady := rfl
@[simp] theorem State.waitFor_colValid (s : State) (who : Collaborator) :
    (s.waitFor who).colValid = s.colValid := rfl
@[simp] theorem State.waitFor_dfValid (s : State) (who : Collaborator) :
    (s.waitFor who).dfValid = s.dfValid := rfl
@[simp] theorem State.waitFor_sb (s : State) (who : Collaborator) : (s.waitFor who).sb = s.sb := rfl
@[simp] theorem State.waitFor_cs (s : State) (who : Collaborator) : (s.waitFor who).cs = s.cs := rfl
@[simp] theorem State.waitFor_binRe (s : State) (who : Collaborator) :
    (s.waitFor who).binRe = s.binRe := rfl
@[simp] theorem State.waitFor_binIm (s : State) (who : Collaborator) :
    (s.waitFor who).binIm = s.binIm := rfl
@[simp] theorem State.waitFor_colH (s : State) (who : Collaborator) :
    (s.waitFor who).colH = s.colH := rfl
@[simp] theorem State.waitFor_colBin (s : State) (who : Collaborator) :
    (s.waitFor who).colBin = s.colBin := rfl
@[simp] theorem State.waitFor_df (s : State) (who : Collaborator) : (s.waitFor who).df = s.df := rfl
@[simp] theorem State.waitFor_txt (s : State) (who : Collaborator) :
    (s.waitFor who).txt = s.txt := rfl
@[simp] theorem State.waitFor_dev (s : State) (who : Collaborator) :
    (s.waitFor who).dev = s.dev := rfl
@[simp] theorem State.waitFor_history (s : State) (who : Collaborator) :
    (s.waitFor who).history = s.history := rfl
@[simp] theorem State.waitFor_env (s : State) (who : Collaborator) :
    (s.waitFor who).env = s.env := rfl

/-! ### State.startLoop -/

@[simp] theorem State.startLoop_cfg (s : State) (m : Mode) : (s.startLoop m).cfg = s.cfg := rfl
@[simp] theorem State.startLoop_mode (s : State) (m : Mode) : (s.startLoop m).mode = m := rfl
@[simp] theorem State.startLoop_seq (s : State) (m : Mode) : (s.startLoop m).seq = .capture := rfl
@[simp] theorem State.startLoop_waiting (s : State) (m : Mode) :
    (s.startLoop m).waiting = s.waiting := rfl
@[simp] theorem State.startLoop_sbCnt (s : State) (m : Mode) :
    (s.startLoop m).sbCnt = s.sbCnt := rfl
@[simp] theorem State.startLoop_inCnt (s : State) (m : Mode) :
    (s.startLoop m).inCnt = s.inCnt := rfl
@[simp] theorem State.startLoop_binCnt (s : State) (m : Mode) :
    (s.startLoop m).binCnt = s.binCnt := rfl
@[simp] theorem State.startLoop_sum (s : State) (m : Mode) : (s.startLoop m).sum = s.sum := rfl
@[simp] theorem State.startLoop_meanFx (s : State) (m : Mode) :
    (s.startLoop m).meanFx = s.meanFx := rfl
@[simp] theorem State.startLoop_zoomLevel (s : State) (m : Mode) :
    (s.startLoop m).zoomLevel = s.zoomLevel := rfl
@[simp] theorem State.startLoop_zsnap (s : State) (m : Mode) :
    (s.startLoop m).zsnap = s.zsnap := rfl
@[simp] theorem State.startLoop_gainLatch (s : State) (m : Mode) :
    (s.startLoop m).gainLatch = s.gainLatch := rfl
@[simp] theorem State.startLoop_xfHandle (s : State) (m : Mode) :
    (s.startLoop m).xfHandle = s.xfHandle := rfl
@[simp] theorem State.startLoop_lbl (s : State) (m : Mode) : (s.startLoop m).lbl = s.lbl := rfl
@[simp] theorem State.startLoop_fault (s : State) (m : Mode) :
    (s.startLoop m).fault = s.fault := rfl
@[simp] theorem State.startLoop_xfReady (s : State) (m : Mode) :
    (s.startLoop m).xfReady = s.xfReady := rfl
@[simp] theorem State.startLoop_colValid (s : State) (m : Mode) :
    (s.startLoop m).colValid = s.colValid := rfl
@[simp] theorem State.startLoop_dfValid (s : State) (m : Mode) :
    (s.startLoop m).dfValid = s.dfValid := rfl
@[simp] theorem State.startLoop_sb (s : State) (m : Mode) : (s.startLoop m).sb = s.sb := rfl
@[simp] theorem State.startLoop_cs (s : State) (m : Mode) : (s.startLoop m).cs = s.cs := rfl
@[simp] theorem State.startLoop_binRe (s : State) (m : Mode) :
    (s.startLoop m).binRe = s.binRe := rfl
@[simp] theorem State.startLoop_binIm (s : State) (m : Mode) :
    (s.startLoop m).binIm = s.binIm := rfl
@[simp] theorem State.startLoop_colH (s : State) (m : Mode) : (s.startLoop m).colH = s.colH := rfl
@[simp] theorem State.startLoop_colBin (s : State) (m : Mode) :
    (s.startLoop m).colBin = s.colBin := rfl
@[simp] theorem State.startLoop_df (s : State) (m : Mode) : (s.startLoop m).df = s.df := rfl
@[simp] theorem State.startLoop_txt (s : State) (m : Mode) : (s.startLoop m).txt = s.txt := rfl
@[simp] theorem State.startLoop_dev (s : State) (m : Mode) : (s.startLoop m).dev = s.dev := rfl
@[simp] theorem State.startLoop_history (s : State) (m : Mode) :
    (s.startLoop m).history = s.history := rfl
@[simp] theorem State.startLoop_env (s : State) (m : Mode) : (s.startLoop m).env = s.env := rfl

/-! ### resetStep -/

@[simp] theorem resetStep_cfg (s : State) : (resetStep s).cfg = s.cfg := rfl
@[simp] theorem resetStep_mode (s : State) : (resetStep s).mode = .idle := rfl
@[simp] theorem resetStep_seq (s : State) : (resetStep s).seq = .capture := rfl
@[simp] theorem resetStep_waiting (s : State) : (resetStep s).waiting = none := rfl
@[simp] theorem resetStep_sbCnt (s : State) : (resetStep s).sbCnt = 0 := rfl
@[simp] theorem resetStep_inCnt (s : State) : (resetStep s).inCnt = 0 := rfl
@[simp] theorem resetStep_binCnt (s : State) : (resetStep s).binCnt = 0 := rfl
@[simp] theorem resetStep_sum (s : State) : (resetStep s).sum = 0 := rfl
@[simp] theorem resetStep_meanFx (s : State) : (resetStep s).meanFx = 0 := rfl
@[simp] theorem resetStep_zoomLevel (s : State) : (resetStep s).zoomLevel = 0#4 := rfl
@[simp] theorem resetStep_zsnap (s : State) : (resetStep s).zsnap = 0#4 := rfl
@[simp] theorem resetStep_gainLatch (s : State) : (resetStep s).gainLatch = 0#16 := rfl
@[simp] theorem resetStep_xfHandle (s : State) : (resetStep s).xfHandle = 0#32 := rfl
@[simp] theorem resetStep_lbl (s : State) :
    (resetStep s).lbl = (List.range s.cfg.nlbl).map (fun j => (j, 0#16)) := rfl
@[simp] theorem resetStep_fault (s : State) : (resetStep s).fault = ⟨0#4, 0#8, 0#3⟩ := rfl
@[simp] theorem resetStep_xfReady (s : State) : (resetStep s).xfReady = false := rfl
@[simp] theorem resetStep_colValid (s : State) : (resetStep s).colValid = false := rfl
@[simp] theorem resetStep_dfValid (s : State) : (resetStep s).dfValid = false := rfl
@[simp] theorem resetStep_sb (s : State) : (resetStep s).sb = [] := rfl
@[simp] theorem resetStep_cs (s : State) : (resetStep s).cs = [] := rfl
@[simp] theorem resetStep_binRe (s : State) : (resetStep s).binRe = [] := rfl
@[simp] theorem resetStep_binIm (s : State) : (resetStep s).binIm = [] := rfl
@[simp] theorem resetStep_colH (s : State) : (resetStep s).colH = [] := rfl
@[simp] theorem resetStep_colBin (s : State) : (resetStep s).colBin = [] := rfl
@[simp] theorem resetStep_df (s : State) : (resetStep s).df = [] := rfl
@[simp] theorem resetStep_txt (s : State) : (resetStep s).txt = [] := rfl
@[simp] theorem resetStep_dev (s : State) : (resetStep s).dev = none := rfl
@[simp] theorem resetStep_history (s : State) : (resetStep s).history = s.history := rfl
@[simp] theorem resetStep_env (s : State) : (resetStep s).env = s.env.reset := rfl

end Sys2Proof.Machine
end

