-- ==== Sys2Proof/Laws/Rules.lean ====
section
/-! SUPPORT. One inversion lemma per rule: everything the rule can do, guards included. -/

namespace Sys2Proof.Machine

/-- Everything CAPTURE's rule can do. -/
theorem captureStage_cases (s : State) :
    (∃ left, captureStage s = .stalled .captureEngine
      { s.clearSb.record [.capDrain] with env := { s.env with capLeft := left } }) ∨
    (∃ vals left rest d,
      (captureStage s = .done
        { s.clearSb with
          sb := memOfList vals
          sbCnt := vals.length
          history := s.history ++ .capDrain :: .capStart s.cfg.n :: sampleEvents 0 vals
          env := { s.env with capLeft := left, samples := rest, drawn := d } }
        ∧ vals.length = s.cfg.n) ∨
      (captureStage s = .stalled .captureEngine
        { s.clearSb with
          sb := memOfList vals
          sbCnt := vals.length
          history := s.history ++ .capDrain :: .capStart s.cfg.n :: sampleEvents 0 vals
          env := { s.env with capLeft := left, samples := rest, drawn := d } }
        ∧ vals.length < s.cfg.n)) := by
  have hle := serve_le s.env.capLeft (1 + s.cfg.n)
  unfold captureStage
  rcases h : serve s.env.capLeft (1 + s.cfg.n) with ⟨beats, left⟩
  rw [h] at hle
  cases beats with
  | zero => exact .inl ⟨left, by simp⟩
  | succ beats =>
    refine .inr ⟨(drawMany s.env.samples Config.freeSample s.env.drawn beats).1, left,
      (drawMany s.env.samples Config.freeSample s.env.drawn beats).2.1,
      (drawMany s.env.samples Config.freeSample s.env.drawn beats).2.2, ?_⟩
    by_cases hb : beats = s.cfg.n
    · left
      simp [hb, State.record]
    · right
      simp only [drawMany_length] at *
      refine ⟨?_, by omega⟩
      simp [hb, State.record]

/-- CAPTURE completes when the engine answers. -/
theorem captureStage_done {s : State} (h : ∀ k, s.env.capLeft = some k → 1 + s.cfg.n ≤ k) :
    captureStage s = .done
      { s.clearSb with
        sb := memOfList (drawMany s.env.samples Config.freeSample s.env.drawn s.cfg.n).1
        sbCnt := s.cfg.n
        history := s.history ++ .capDrain :: .capStart s.cfg.n ::
          sampleEvents 0 (drawMany s.env.samples Config.freeSample s.env.drawn s.cfg.n).1
        env := { s.env with
          capLeft := (serve s.env.capLeft (1 + s.cfg.n)).2
          samples := (drawMany s.env.samples Config.freeSample s.env.drawn s.cfg.n).2.1
          drawn := (drawMany s.env.samples Config.freeSample s.env.drawn s.cfg.n).2.2 } } := by
  have hs := serve_eq_of_answers h
  unfold captureStage
  rcases h' : serve s.env.capLeft (1 + s.cfg.n) with ⟨beats, left⟩
  rw [h'] at hs
  simp only at hs
  obtain rfl : beats = s.cfg.n + 1 := by omega
  simp [State.record]

/-- Everything RMDC's rule can do. -/
theorem rmdcStage_cases (s : State) :
    (s.sbCnt ≠ s.cfg.n ∧ rmdcStage s = .raised .seq s) ∨
    (s.sbCnt = s.cfg.n ∧ memReadRange s.sb s.cfg.n = none ∧ rmdcStage s = .noValue .sb) ∨
    (∃ xs, s.sbCnt = s.cfg.n ∧ memReadRange s.sb s.cfg.n = some xs ∧
      rmdcStage s = .done { s.clearCs with
        sum := sampleSum xs
        meanFx := meanOf s.cfg (sampleSum xs)
        cs := memOfList (xs.map (centre s.cfg (meanOf s.cfg (sampleSum xs))))
        inCnt := s.cfg.n }) := by
  by_cases hv : s.sbCnt = s.cfg.n
  · cases hr : memReadRange s.sb s.cfg.n with
    | none => exact .inr (.inl ⟨hv, rfl, by simp [rmdcStage, State.sbValid, hv, hr]⟩)
    | some xs => exact .inr (.inr ⟨xs, hv, rfl, by simp [rmdcStage, State.sbValid, hv, hr]⟩)
  · exact .inl ⟨hv, by simp [rmdcStage, State.sbValid, hv]⟩

/-- Everything XFINIT's rule can do. -/
theorem xfinitRule_cases (s : State) :
    (s.xfReady = true ∧ xfinitRule s = .raised .reinit s) ∨
    (∃ left, s.xfReady = false ∧
      xfinitRule s = .stalled .transformEngine
        { s.record [.xfInitRequest s.cfg.n] with env := { s.env with xfLeft := left } }) ∨
    (∃ ok handle left rest d, s.xfReady = false ∧ handle.toNat < 2 ^ s.cfg.handleW ∧
      ((ok = false ∧ xfinitRule s = .raised .xfalloc
          { s.record [.xfInit s.cfg.n ok handle] with
            env := { s.env with xfLeft := left, inits := rest, drawn := d } }) ∨
       (ok = true ∧ xfinitRule s = .done
          { s.record [.xfInit s.cfg.n ok handle] with
            env := { s.env with xfLeft := left, inits := rest, drawn := d }
            xfHandle := handle
            xfReady := true }))) := by
  cases hr : s.xfReady with
  | true => exact .inl ⟨rfl, by simp [xfinitRule, hr]⟩
  | false =>
    right
    rcases h : serve s.env.xfLeft 1 with ⟨_ | beats, left⟩
    · exact .inl ⟨left, rfl, by simp [xfinitRule, hr, h]⟩
    · right
      rcases hd : drawOne s.env.inits Config.freeInit s.env.drawn with ⟨⟨ok, g⟩, rest, d⟩
      refine ⟨ok, BitVec.ofNat 32 (g.toNat % 2 ^ s.cfg.handleW), left, rest, d, rfl, ?_, ?_⟩
      · rw [BitVec.toNat_ofNat]
        exact lt_of_le_of_lt (Nat.mod_le _ _) (Nat.mod_lt _ (by positivity))
      · cases ok
        · exact .inl ⟨rfl, by simp [xfinitRule, hr, h, hd]⟩
        · exact .inr ⟨rfl, by simp [xfinitRule, hr, h, hd]⟩

@[simp] theorem transform_length (c : Config) (v : List Int) : (transform c v).length = c.nb := by
  simp [transform]

/-- Everything XFEXEC's rule can do. -/
theorem xfexecStage_cases (s : State) :
    (s.xfReady = false ∧ xfexecStage s = .raised .noinit s) ∨
    (s.xfReady = true ∧ s.inCnt ≠ s.cfg.n ∧ xfexecStage s = .raised .len s) ∨
    (s.xfReady = true ∧ s.inCnt = s.cfg.n ∧ memReadRange s.cs s.cfg.n = none ∧
      xfexecStage s = .noValue .cs) ∨
    (∃ v left, s.xfReady = true ∧ s.inCnt = s.cfg.n ∧ memReadRange s.cs s.cfg.n = some v ∧
      xfexecStage s = .done
        { s.clearBins with
          binRe := memOfList ((transform s.cfg v).map Prod.fst)
          binIm := memOfList ((transform s.cfg v).map Prod.snd)
          binCnt := s.cfg.nb
          env := { s.env with xfLeft := left }
          history := s.history ++ [.xfExec s.xfHandle v (transform s.cfg v)] }) ∨
    (∃ v k left, s.xfReady = true ∧ s.inCnt = s.cfg.n ∧ memReadRange s.cs s.cfg.n = some v ∧
      xfexecStage s = .stalled .transformEngine
        { s.clearBins with
          binRe := memOfList (((transform s.cfg v).take (k - s.cfg.n)).map Prod.fst)
          binIm := memOfList (((transform s.cfg v).take (k - s.cfg.n)).map Prod.snd)
          binCnt := ((transform s.cfg v).take (k - s.cfg.n)).length
          env := { s.env with xfLeft := left }
          history := s.history ++
            [.xfExec s.xfHandle (v.take k) ((transform s.cfg v).take (k - s.cfg.n))] }) := by
  cases hr : s.xfReady with
  | false => exact .inl ⟨rfl, by simp [xfexecStage, hr]⟩
  | true =>
    right
    by_cases hv : s.inCnt = s.cfg.n
    · right
      cases hm : memReadRange s.cs s.cfg.n with
      | none => exact .inl ⟨rfl, hv, rfl, by simp [xfexecStage, hr, State.csValid, hv, hm]⟩
      | some v =>
        right
        have hl := memReadRange_length hm
        by_cases hb : (serve s.env.xfLeft (s.cfg.n + s.cfg.nb)).1 = s.cfg.n + s.cfg.nb
        · refine .inl ⟨v, (serve s.env.xfLeft (s.cfg.n + s.cfg.nb)).2, rfl, hv, rfl, ?_⟩
          simp [xfexecStage, hr, State.csValid, hv, hm, hb, List.take_of_length_le, State.record, hl]
        · refine .inr ⟨v, (serve s.env.xfLeft (s.cfg.n + s.cfg.nb)).1,
            (serve s.env.xfLeft (s.cfg.n + s.cfg.nb)).2, rfl, hv, rfl, ?_⟩
          simp [xfexecStage, hr, State.csValid, hv, hm, hb, State.record]
    · exact .inl ⟨rfl, hv, by simp [xfexecStage, hr, State.csValid, hv]⟩

/-- XFEXEC completes when it is ready, its input valid and the engine answers. -/
theorem xfexecStage_done {s : State} {v : List Int} (hr : s.xfReady = true)
    (hn : s.inCnt = s.cfg.n) (hm : memReadRange s.cs s.cfg.n = some v)
    (ha : ∀ k, s.env.xfLeft = some k → s.cfg.n + s.cfg.nb ≤ k) :
    xfexecStage s = .done
        { s.clearBins with
          binRe := memOfList ((transform s.cfg v).map Prod.fst)
          binIm := memOfList ((transform s.cfg v).map Prod.snd)
          binCnt := s.cfg.nb
          env := { s.env with xfLeft := (serve s.env.xfLeft (s.cfg.n + s.cfg.nb)).2 }
          history := s.history ++ [.xfExec s.xfHandle v (transform s.cfg v)] } := by
  have hs := serve_eq_of_answers ha
  have hl := memReadRange_length hm
  simp [xfexecStage, hr, State.csValid, hn, hm, hs, List.take_of_length_le, State.record, hl]

/-- Everything XFREL's rule can do. -/
theorem xfrelRule_cases (s : State) :
    (s.xfReady = false ∧ xfrelRule s = .raised .noinit s) ∨
    (∃ left, s.xfReady = true ∧ xfrelRule s = .stalled .transformEngine
      { s.record [.xfRelease s.xfHandle] with env := { s.env with xfLeft := left } }) ∨
    (∃ left, s.xfReady = true ∧ xfrelRule s = .done
      { s.record [.xfRelease s.xfHandle] with
        xfReady := false, xfHandle := 0#32, env := { s.env with xfLeft := left } }) := by
  cases hr : s.xfReady with
  | false => exact .inl ⟨rfl, by simp [xfrelRule, hr]⟩
  | true =>
    right
    rcases h : serve s.env.xfLeft 1 with ⟨_ | beats, left⟩
    · exact .inl ⟨left, rfl, by simp [xfrelRule, hr, h]⟩
    · exact .inr ⟨left, rfl, by simp [xfrelRule, hr, h]⟩

/-- Everything the gain sample can do. -/
theorem sampleGain_cases (s : State) :
    (s.cfg.gainLive = false ∧ sampleGain s = s) ∨
    (∃ g rest d, s.cfg.gainLive = true ∧ g.toNat < 2 ^ s.cfg.gainW ∧
      sampleGain s = { s.record [.gainSample g] with
        gainLatch := g, env := { s.env with gains := rest, drawn := d } }) := by
  cases hl : s.cfg.gainLive with
  | false => exact .inl ⟨rfl, by simp [sampleGain, hl]⟩
  | true =>
    refine .inr ⟨BitVec.ofNat 16
        ((drawOne s.env.gains Config.freeGain s.env.drawn).1.toNat % 2 ^ s.cfg.gainW),
      (drawOne s.env.gains Config.freeGain s.env.drawn).2.1,
      (drawOne s.env.gains Config.freeGain s.env.drawn).2.2, rfl, ?_, by simp [sampleGain, hl]⟩
    rw [BitVec.toNat_ofNat]
    exact lt_of_le_of_lt (Nat.mod_le _ _) (Nat.mod_lt _ (by positivity))

/-- Everything MAP's rule can do. `g`, `h`, `e` are GAIN_LATCH, the history and the world after the
gain sample. -/
theorem mapStage_cases (s : State) :
    (s.binCnt ≠ s.cfg.nb ∧ mapStage s = .raised .seq s) ∨
    (s.binCnt = s.cfg.nb ∧
      columnEnergies s.cfg s.binRe s.binIm (s.cfg.zoomAt s.zoomLevel.toNat) = none ∧
      mapStage s = .noValue .bins) ∨
    (∃ es, s.binCnt = s.cfg.nb ∧
      columnEnergies s.cfg s.binRe s.binIm (s.cfg.zoomAt s.zoomLevel.toNat) = some es ∧
      mapStage s = .done
        { sampleGain { s.clearColumns with zsnap := s.zoomLevel } with
          colBin := memOfList (columnBins s.cfg (s.cfg.zoomAt s.zoomLevel.toNat))
          colH := memOfList (es.map (fun e => BitVec.ofNat 5 (height s.cfg
            (sampleGain { s.clearColumns with zsnap := s.zoomLevel }).gainLatch e)))
          lbl := memOfList (labelValues s.cfg (s.cfg.zoomAt s.zoomLevel.toNat))
          colValid := true }) := by
  by_cases hv : s.binCnt = s.cfg.nb
  · cases hr : columnEnergies s.cfg s.binRe s.binIm (s.cfg.zoomAt s.zoomLevel.toNat) with
    | none => exact .inr (.inl ⟨hv, rfl, by simp [mapStage, State.binsValid, hv, hr]⟩)
    | some es => exact .inr (.inr ⟨es, hv, rfl, by simp [mapStage, State.binsValid, hv, hr]⟩)
  · exact .inl ⟨hv, by simp [mapStage, State.binsValid, hv]⟩

/-- Everything RENDER's rule can do. -/
theorem renderStage_cases (s : State) :
    (s.colValid = false ∧ renderStage s = .raised .seq s) ∨
    (s.colValid = true ∧ renderStage s = .noValue .columns) ∨
    (∃ hs ls left, s.colValid = true ∧ memReadRange s.colH s.cfg.wCols = some hs ∧
      memReadRange s.lbl s.cfg.nlbl = some ls ∧
      renderStage s = .done { s with
        dfValid := true
        df := (drawAll s.cfg ⟨s.df, s.txt⟩ (renderRequests s.cfg hs ls)).pixels
        txt := (drawAll s.cfg ⟨s.df, s.txt⟩ (renderRequests s.cfg hs ls)).texts
        history := s.history ++ (renderRequests s.cfg hs ls).map .disp
        env := { s.env with dispLeft := left } }) ∨
    (∃ hs ls k left, s.colValid = true ∧ memReadRange s.colH s.cfg.wCols = some hs ∧
      memReadRange s.lbl s.cfg.nlbl = some ls ∧
      renderStage s = .stalled .display { s with
        dfValid := false
        df := (drawAll s.cfg ⟨s.df, s.txt⟩ ((renderRequests s.cfg hs ls).take k)).pixels
        txt := (drawAll s.cfg ⟨s.df, s.txt⟩ ((renderRequests s.cfg hs ls).take k)).texts
        history := s.history ++ ((renderRequests s.cfg hs ls).take k).map .disp
        env := { s.env with dispLeft := left } }) := by
  cases hc : s.colValid with
  | false => exact .inl ⟨rfl, by simp [renderStage, hc]⟩
  | true =>
    right
    cases hh : memReadRange s.colH s.cfg.wCols with
    | none => exact .inl ⟨rfl, by simp [renderStage, hc, hh]⟩
    | some hs =>
      cases hl : memReadRange s.lbl s.cfg.nlbl with
      | none => exact .inl ⟨rfl, by simp [renderStage, hc, hh, hl]⟩
      | some ls =>
        right
        by_cases hb : (serve s.env.dispLeft (renderRequests s.cfg hs ls).length).1 =
            (renderRequests s.cfg hs ls).length
        · refine .inl ⟨hs, ls, (serve s.env.dispLeft (renderRequests s.cfg hs ls).length).2,
            rfl, rfl, rfl, ?_⟩
          simp [renderStage, hc, hh, hl, hb, State.record]
        · refine .inr ⟨hs, ls, (serve s.env.dispLeft (renderRequests s.cfg hs ls).length).1,
            (serve s.env.dispLeft (renderRequests s.cfg hs ls).length).2, rfl, rfl, rfl, ?_⟩
          simp [renderStage, hc, hh, hl, hb, State.record]

/-- RENDER completes when its input is valid and the display answers. -/
theorem renderStage_done {s : State} {hs : List (BitVec 5)} {ls : List (BitVec 16)}
    (hc : s.colValid = true) (hh : memReadRange s.colH s.cfg.wCols = some hs)
    (hl : memReadRange s.lbl s.cfg.nlbl = some ls)
    (ha : ∀ k, s.env.dispLeft = some k → (renderRequests s.cfg hs ls).length ≤ k) :
    renderStage s = .done { s with
        dfValid := true
        df := (drawAll s.cfg ⟨s.df, s.txt⟩ (renderRequests s.cfg hs ls)).pixels
        txt := (drawAll s.cfg ⟨s.df, s.txt⟩ (renderRequests s.cfg hs ls)).texts
        history := s.history ++ (renderRequests s.cfg hs ls).map .disp
        env := { s.env with
          dispLeft := (serve s.env.dispLeft (renderRequests s.cfg hs ls).length).2 } } := by
  have hs' := serve_eq_of_answers ha
  simp [renderStage, hc, hh, hl, hs', State.record]

/-- Everything FLUSH's rule can do. -/
theorem flushStage_cases (s : State) :
    (s.dfValid = false ∧ flushStage s = .raised .seq s) ∨
    (∃ left es, s.dfValid = true ∧ (es = [] ∨ es = [.disp .flush]) ∧ flushStage s = .stalled .display
      { s.record es with env := { s.env with dispLeft := left } }) ∨
    (∃ ok left rest d, s.dfValid = true ∧
      ((ok = true ∧ flushStage s = .done
        { s.record [.disp .flush, .flushAnswer ok] with
          env := { s.env with dispLeft := left, flushes := rest, drawn := d }
          dev := some ⟨s.df, s.txt⟩ }) ∨
       (ok = false ∧ flushStage s = .raised .dispfail
        { s.record [.disp .flush, .flushAnswer ok] with
          env := { s.env with dispLeft := left, flushes := rest, drawn := d + 1 }
          dev := Config.freeDev d }))) := by
  cases hv : s.dfValid with
  | false => exact .inl ⟨rfl, by simp [flushStage, hv]⟩
  | true =>
    right
    rcases h : serve s.env.dispLeft 2 with ⟨_ | _ | beats, left⟩
    · exact .inl ⟨left, [], rfl, .inl rfl, by simp [flushStage, hv, h, State.record]⟩
    · exact .inl ⟨left, [.disp .flush], rfl, .inr rfl, by simp [flushStage, hv, h]⟩
    · right
      rcases hd : drawOne s.env.flushes Config.freeFlush s.env.drawn with ⟨ok, rest, d⟩
      refine ⟨ok, left, rest, d, rfl, ?_⟩
      cases ok
      · exact .inr ⟨rfl, by simp [flushStage, hv, h, hd]⟩
      · exact .inl ⟨rfl, by simp [flushStage, hv, h, hd]⟩

end Sys2Proof.Machine
end

