-- ==== Sys2Proof/Laws/Step.lean ====
section
/-! SUPPORT. Everything a step can do, said once; and the induction over it: a property that every
operation of the machine keeps is kept by every step. -/

namespace Sys2Proof.Machine

/-- The eight rules a command or a stage step can run. -/
def rules : List (State → RuleResult) :=
  [captureStage, rmdcStage, xfexecStage, mapStage, renderStage, flushStage, xfinitRule, xfrelRule]

theorem stageRule_mem (st : Stage) : stageRule st ∈ rules := by cases st <;> simp [stageRule, rules]

/-- Everything a taken word can do: in HALTED a response; in IDLE a response, a fault entry, the start
of FRAME or RUN, or one of the eight rules. -/
theorem takeWord_next {w : Word} {s t : State} (hc : s.cmdReady = true)
    (h : takeWord w s = .next t) :
    (∃ a d, t = s.respond a d) ∨
    (s.mode = .idle ∧ s.waiting = none ∧
      ((∃ c op st, t = takeFault c op st s) ∨
       (∃ m, (m = .frame1 ∨ m = .run) ∧ t = s.startLoop m) ∨
       (∃ rule ∈ rules,
         (∃ u, rule s = .done u ∧ t = u.respond .ok 0#32) ∨
         (∃ c op st u, rule s = .raised c u ∧ t = takeFault c op st u) ∨
         (∃ who u, rule s = .stalled who u ∧ t = u.waitFor who)))) := by
  have hrun : ∀ (i : Instr) (st : BitVec 3) (rule : State → RuleResult), rule ∈ rules →
      runCommand i st rule s = .next t →
      (∃ a d, t = s.respond a d) ∨
      (s.mode = .idle ∧ s.waiting = none ∧
        ((∃ c op st, t = takeFault c op st s) ∨
         (∃ m, (m = .frame1 ∨ m = .run) ∧ t = s.startLoop m) ∨
         (∃ rule ∈ rules,
           (∃ u, rule s = .done u ∧ t = u.respond .ok 0#32) ∨
           (∃ c op st u, rule s = .raised c u ∧ t = takeFault c op st u) ∨
           (∃ who u, rule s = .stalled who u ∧ t = u.waitFor who)))) := by
    intro i st rule hr h
    rcases runCommand_next h with ⟨hn, -⟩ | ⟨-, ht⟩ | ⟨hm, hw, hd | ⟨c, u, hu, ht⟩ | hs⟩
    · rw [hn] at hc; cases hc
    · exact .inl ⟨_, _, ht⟩
    · exact .inr ⟨hm, hw, .inr (.inr ⟨rule, hr, .inl hd⟩)⟩
    · exact .inr ⟨hm, hw, .inr (.inr ⟨rule, hr, .inr (.inl ⟨c, _, _, u, hu, ht⟩)⟩)⟩
    · exact .inr ⟨hm, hw, .inr (.inr ⟨rule, hr, .inr (.inr hs)⟩)⟩
  have hacc : ∀ f g : State → Host.Outcome State Fault Refusal, accept s f g = .next t →
      (s.mode = .idle ∧ s.waiting = none ∧ f s = .next t) ∨ (g s = .next t) := by
    intro f g h
    rcases accept_cases s f g with ⟨hm, hw, he⟩ | ⟨hm, he⟩ | ⟨hn, -⟩
    · exact .inl ⟨hm, hw, he ▸ h⟩
    · exact .inr (he ▸ h)
    · rw [hn] at hc; cases hc
  have hresp : ∀ {a d}, (Host.Outcome.next (s.respond a d) : Host.Outcome State Fault Refusal) =
      .next t → ∃ a d, t = s.respond a d := by
    intro a d h; exact ⟨a, d, by simpa using h.symm⟩
  unfold takeWord at h
  cases hd : decode w with
  | error e =>
    rw [hd] at h
    replace h : execIllegal w s = .next t := h
    rcases hacc _ _ h with ⟨hm, hw, hf⟩ | hg
    · exact .inr ⟨hm, hw, .inl ⟨_, _, _, by simpa using hf.symm⟩⟩
    · exact .inl (hresp hg)
  | ok i =>
    rw [hd] at h
    replace h : exec i s = .next t := h
    cases i with
    | nop =>
      replace h : execNop s = .next t := h
      rcases hacc _ _ h with ⟨hm, hw, hf⟩ | hg
      · exact .inl (hresp hf)
      · exact .inl (hresp hg)
    | capture => exact hrun _ _ _ (by simp [rules]) h
    | rmdc => exact hrun _ _ _ (by simp [rules]) h
    | xfexec => exact hrun _ _ _ (by simp [rules]) h
    | map => exact hrun _ _ _ (by simp [rules]) h
    | render => exact hrun _ _ _ (by simp [rules]) h
    | flush => exact hrun _ _ _ (by simp [rules]) h
    | frame =>
      replace h : execFrame s = .next t := h
      rcases hacc _ _ h with ⟨hm, hw, hf⟩ | hg
      · exact .inr ⟨hm, hw, .inr (.inl ⟨.frame1, .inl rfl, by simpa using hf.symm⟩)⟩
      · exact .inl (hresp hg)
    | run =>
      replace h : execRun s = .next t := h
      rcases hacc _ _ h with ⟨hm, hw, hf⟩ | hg
      · exact .inr ⟨hm, hw, .inr (.inl ⟨.run, .inr rfl, by simpa using hf.symm⟩)⟩
      · exact .inl (hresp hg)
    | xfinit => exact hrun _ _ _ (by simp [rules]) h
    | xfrel => exact hrun _ _ _ (by simp [rules]) h
    | ld space index =>
      replace h : execLd space index s = .next t := h
      rcases hacc _ _ h with ⟨hm, hw, hf⟩ | hg
      · cases hl : loadElement s space index with
        | ok v => rw [hl] at hf; exact .inl (hresp hf)
        | error c =>
          rw [hl] at hf
          exact .inr ⟨hm, hw, .inl ⟨_, _, _, by simpa using hf.symm⟩⟩
      · cases hl : loadElement s space index with
        | ok v => rw [hl] at hg; exact .inl (hresp hg)
        | error c => rw [hl] at hg; exact .inl (hresp hg)

/-- Everything a stage step can do. -/
theorem runStage_next {s t : State} (h : runStage s = .next t) :
    (∃ u, stageRule s.seq s = .done u ∧ t = advanceStage u) ∨
    (∃ c u, stageRule s.seq s = .raised c u ∧
      t = takeFault c (loopOpcode s.mode) s.seq.index u) ∨
    (∃ who u, stageRule s.seq s = .stalled who u ∧ t = u.waitFor who) := by
  unfold runStage at h
  cases hr : stageRule s.seq s <;> rw [hr] at h <;>
    simp only [Host.Outcome.next.injEq, reduceCtorEq] at h
  · exact .inl ⟨_, rfl, h.symm⟩
  · exact .inr (.inl ⟨_, _, rfl, h.symm⟩)
  · exact .inr (.inr ⟨_, _, rfl, h.symm⟩)

/-- Everything the sequencer's turn can do. -/
theorem sequencerTurn_next {s t : State} (h : sequencerTurn s = .next t) :
    t = s ∨
    (∃ w ws, (s.withEnv { s.env with cmds := ws }).cmdReady = true ∧ s.env.cmds = w :: ws ∧
      takeWord w (s.withEnv { s.env with cmds := ws }) = .next t) ∨
    ((s.mode = .frame1 ∨ s.mode = .run) ∧ s.waiting = none ∧ runStage s = .next t) := by
  unfold sequencerTurn at h
  by_cases hc : s.cmdReady = true
  · rw [if_pos hc] at h
    cases hw : s.env.cmds with
    | nil => rw [hw] at h; exact .inl (by simpa using h.symm)
    | cons w ws => rw [hw] at h; exact .inr (.inl ⟨w, ws, hc, rfl, h⟩)
  · rw [if_neg hc] at h
    by_cases hs : s.stuck = true
    · rw [if_pos hs] at h; exact .inl (by simpa using h.symm)
    · rw [if_neg hs] at h
      refine .inr (.inr ⟨?_, ?_, h⟩)
      · cases hm : s.mode <;> simp_all [State.cmdReady]
      · simpa [State.stuck] using hs

/-- Everything a turn can do: a zoom event, a reset, a turn that passes (the head of the schedule taken,
nothing else), or the sequencer's turn, with the head of the schedule taken or not. -/
theorem turn_next {s t : State} (h : turn s = .next t) :
    (∃ r, s.env.sched = .zoom :: r ∧ t = zoomStep (s.withEnv { s.env with sched := r })) ∨
    (∃ r, s.env.sched = .reset :: r ∧ t = resetStep (s.withEnv { s.env with sched := r })) ∨
    (∃ u r, s.env.sched = u :: r ∧ (u = .stage ∨ u = .answered) ∧
      (s.cmdReady = true ∨ s.stuck = true) ∧ t = s.withEnv { s.env with sched := r }) ∨
    (s.env.sched.head? ≠ some .zoom ∧ s.env.sched.head? ≠ some .reset ∧
      ∃ r, (r = s.env.sched ∨ r = s.env.sched.tail) ∧
        sequencerTurn (s.withEnv { s.env with sched := r }) = .next t) := by
  have hkeep : s.withEnv { s.env with sched := s.env.sched } = s := rfl
  unfold turn at h
  split at h
  next hs => exact .inr (.inr (.inr ⟨by simp [hs], by simp [hs], _, .inl rfl, hkeep ▸ h⟩))
  next r hs => exact .inr (.inr (.inr ⟨by simp [hs], by simp [hs], _, .inr rfl, by simpa [hs]⟩))
  next r hs =>
    split at h
    next hc => exact .inr (.inr (.inl ⟨_, r, hs, .inl rfl, .inl hc, by simpa using h.symm⟩))
    next => exact .inr (.inr (.inr ⟨by simp [hs], by simp [hs], _, .inr rfl, by simpa [hs]⟩))
  next r hs =>
    refine .inr (.inr (.inr ⟨by simp [hs], by simp [hs], ?_⟩))
    split at h
    · exact ⟨_, .inr rfl, by simpa [hs]⟩
    · exact ⟨_, .inl rfl, hkeep ▸ h⟩
  next r hs =>
    split at h
    next hc =>
      exact .inr (.inr (.inl ⟨_, r, hs, .inr rfl, by simpa using hc, by simpa using h.symm⟩))
    next =>
      exact .inr (.inr (.inr ⟨by simp [hs], by simp [hs], _, .inl rfl, hkeep ▸ h⟩))
  next r hs => exact .inl ⟨r, hs, by simpa using h.symm⟩
  next r hs => exact .inr (.inl ⟨r, hs, by simpa using h.symm⟩)

/-- A step is a turn of a machine whose parameter record is valid. -/
theorem step_next {s t : State} (h : step s = .next t) : s.cfg.Valid ∧ turn s = .next t := by
  unfold step stepOnce at h
  split at h
  next hv => exact ⟨hv, h⟩
  next => cases h

/-- A property holds of every state a rule can leave. -/
def RuleResult.keeps (P : State → Prop) : RuleResult → Prop
  | .done u => P u
  | .raised _ u => P u
  | .stalled who u => P (u.waitFor who)
  | .noValue _ => True

/-- A property that every operation of the machine keeps is kept by every step. -/
theorem step_keeps {P : State → Prop}
    (henv : ∀ s e, P s → P (s.withEnv e))
    (hzoom : ∀ s, s.cfg.Valid → P s → P (zoomStep s))
    (hreset : ∀ s, s.cfg.Valid → P s → P (resetStep s))
    (hrespond : ∀ s a d, P s → P (s.respond a d))
    (hfault : ∀ s c op st, P s → P (takeFault c op st s))
    (hmode : ∀ s m q, P s → P { s with mode := m, seq := q })
    (hrules : ∀ rule ∈ rules, ∀ s, s.cfg.Valid → P s → (rule s).keeps P)
    {s t : State} (hs : P s) (h : step s = .next t) : P t := by
  obtain ⟨hv, h⟩ := step_next h
  rcases turn_next h with ⟨r, -, rfl⟩ | ⟨r, -, rfl⟩ | ⟨_, r, -, -, -, rfl⟩ |
    ⟨-, -, r, -, ht⟩
  · exact hzoom _ hv (henv _ _ hs)
  · exact hreset _ hv (henv _ _ hs)
  · exact henv _ _ hs
  · have hadv : ∀ u, P u → P (advanceStage u) := by
      intro u hu
      unfold advanceStage
      cases hq : u.seq <;> simp only
      case flush =>
        cases hm : u.mode <;> simp only
        case frame1 => exact hrespond _ _ _ (hmode u .idle .capture hu)
        all_goals exact hmode u _ .capture hu
      all_goals exact hmode u u.mode _ hu
    have hk : ∀ rule ∈ rules, ∀ u, u.cfg.Valid → P u →
        (∀ v, rule u = .done v → P v) ∧ (∀ c v, rule u = .raised c v → P v) ∧
        (∀ who v, rule u = .stalled who v → P (v.waitFor who)) := by
      intro rule hmem u hv' hu
      have := hrules rule hmem u hv' hu
      refine ⟨fun v h => ?_, fun c v h => ?_, fun who v h => ?_⟩ <;> rw [h] at this <;> exact this
    rcases sequencerTurn_next ht with rfl | ⟨w, ws, hc, -, hw⟩ | ⟨-, -, hr⟩
    · exact henv _ _ hs
    · have hs' := henv _ { s.env with sched := r, cmds := ws } hs
      have hv' : (s.withEnv { s.env with sched := r, cmds := ws }).cfg.Valid := hv
      rcases takeWord_next hc hw with ⟨a, d, rfl⟩ | ⟨-, -, ⟨c, op, st, rfl⟩ | ⟨m, -, rfl⟩ |
        ⟨rule, hmem, ⟨u, hu, rfl⟩ | ⟨c, op, st, u, hu, rfl⟩ | ⟨who, u, hu, rfl⟩⟩⟩
      · exact hrespond _ _ _ hs'
      · exact hfault _ _ _ _ hs'
      · exact hmode _ _ _ hs'
      · exact hrespond _ _ _ ((hk rule hmem _ hv' hs').1 u hu)
      · exact hfault _ _ _ _ ((hk rule hmem _ hv' hs').2.1 c u hu)
      · exact (hk rule hmem _ hv' hs').2.2 who u hu
    · have hs' := henv _ { s.env with sched := r } hs
      have hv' : (s.withEnv { s.env with sched := r }).cfg.Valid := hv
      rcases runStage_next hr with ⟨u, hu, rfl⟩ | ⟨c, u, hu, rfl⟩ | ⟨who, u, hu, rfl⟩
      · exact hadv _ ((hk _ (stageRule_mem _) _ hv' hs').1 u hu)
      · exact hfault _ _ _ _ ((hk _ (stageRule_mem _) _ hv' hs').2.1 c u hu)
      · exact (hk _ (stageRule_mem _) _ hv' hs').2.2 who u hu

end Sys2Proof.Machine
end

