-- ==== Sys2Proof/Tests/Slice0.lean ====
section
/-! SUPPORT. Tests. The expected values are those of spec/95_test_vectors.md (the vector's number stands
in each docstring) and of the examples in the rules. The last section shows, for every statement with
hypotheses, a state and operands that meet them all. -/

namespace Sys2Proof.Tests

open Sys2Proof.Machine

/-! ### WellFormed: an ill-formed term for each check -/

/-- `space` has 4 bits. -/
theorem test_ill_formed_space : (Instr.ld 16 0).wellFormed = false := by decide

/-- `index` has 16 bits. -/
theorem test_ill_formed_index : (Instr.ld 0 65536).wellFormed = false := by decide

/-- Both at their largest. -/
theorem test_well_formed_edge : (Instr.ld 15 65535).wellFormed = true := by decide

/-! ### Decode: V1, V2, V3 -/

theorem test_decode_nop : decode 0x00000000#32 = .ok .nop := by decide
theorem test_decode_capture : decode 0x01000000#32 = .ok .capture := by decide
theorem test_decode_rmdc : decode 0x02000000#32 = .ok .rmdc := by decide
theorem test_decode_xfexec : decode 0x03000000#32 = .ok .xfexec := by decide
theorem test_decode_map : decode 0x04000000#32 = .ok .map := by decide
theorem test_decode_render : decode 0x05000000#32 = .ok .render := by decide
theorem test_decode_flush : decode 0x06000000#32 = .ok .flush := by decide
theorem test_decode_frame : decode 0x08000000#32 = .ok .frame := by decide
theorem test_decode_run : decode 0x09000000#32 = .ok .run := by decide
theorem test_decode_xfinit : decode 0x10000000#32 = .ok .xfinit := by decide
theorem test_decode_xfrel : decode 0x11000000#32 = .ok .xfrel := by decide

/-- `LD BIN_RE, 5` (R123). -/
theorem test_decode_ld_bin : decode 0x20300005#32 = .ok (.ld 3 5) := by decide

/-- `LD DF, (3, 2)` with `W_PX = 8` (R123). -/
theorem test_decode_ld_df : decode 0x20800013#32 = .ok (.ld 8 19) := by decide

/-- A reserved opcode byte. -/
theorem test_decode_reserved : decode 0x07000000#32 = .error (.reservedOpcode 0x07#8) := by decide

/-- A format Z word with bit 0 set, and an LD with bit 16 set. -/
theorem test_decode_zero_field :
    decode 0x01000001#32 = .error (.nonzeroZero 0x01#8) ∧
      decode 0x20010000#32 = .error (.nonzeroZero 0x20#8) := by decide

/-- LD of a reserved space decodes (R116). -/
theorem test_decode_ld_reserved_space : decode 0x20F0FFFF#32 = .ok (.ld 15 65535) := by decide

/-- The table's words, least significant bit first in the number. -/
theorem test_decode_table_word :
    decodeTableWord 32 0x20300005 = some (.ld 3 5) ∧ decodeTableWord 32 0x07000000 = none ∧
      decodeTableWord 32 0 = some .nop := by decide

/-- Words of R123, written out. -/
theorem test_encode : encode (.ld 8 19) = 0x20800013#32 ∧ encode .frame = 0x08000000#32 := by decide

/-! ### One step of each command, profile T unless said -/

/-- Profile T with these answers of the engine: bins `(0, 0), (0, -1016), (0, 0)` for
`CS = [0, 508, 0, -508]` (R193). -/
def profileRef : Config :=
  { Config.profileT with engine := [([0, 508, 0, -508], [(0, 0), (0, -1016), (0, 0)])] }

/-- A state of profile T in MODE IDLE with every buffer valid: SB and CS of R171's example, the bins
and columns of V30, a rendered frame of dark pixels; the tapes hold one draw each, and each
collaborator answers exactly what one command needs. -/
def full : State :=
  { State.resetOf profileRef with
    sb := memOfList [1#8, 2#8, 3#8, 6#8], sbCnt := 4, sum := 12, meanFx := 12
    cs := memOfList [0, 508, 0, -508], inCnt := 4
    binRe := memOfList [0, 0, 0], binIm := memOfList [0, -1016, 0], binCnt := 3
    colBin := memOfList [0, 0, 0, 0, 1, 1, 1], colH := memOfList (List.replicate 7 3#5)
    lbl := memOfList [0#16, 2#16], colValid := true
    df := memOfList (List.replicate 96 0#1), dfValid := true
    xfReady := true, xfHandle := 0x2A#32
    env := { Env.quiet with
      samples := [1#8, 2#8, 3#8, 6#8], gains := [7#16], inits := [(true, 0x2A#32)]
      flushes := [true], capLeft := some 5, xfLeft := some 7, dispLeft := some 44 } }

/-- `full` without a handle. -/
def unready : State := { full with xfReady := false, xfHandle := 0#32 }

/-- The machine of profile T after reset. -/
def fresh : State := State.resetOf profileRef

/-- `full` in MODE HALTED after V18's fault. -/
def halted : State := { full with mode := .halted, fault := ⟨2#4, 0x02#8, 1#3⟩ }

/-- `full` inside a frame, at stage 5. -/
def inFrame : State := { full with mode := .frame1, seq := .flush }

/-- `full` waiting for the display. -/
def stuckOnDisplay : State := { full with waiting := some .display }

/-- The next state of an outcome has a property. -/
def gives (o : Host.Outcome State Fault Refusal) (p : State → Bool) : Bool :=
  match o with
  | .next t => p t
  | .fault _ | .refused _ => false

/-- The last response. -/
def lastResponse (s : State) : Option Event := s.history.getLast?

/-- V5. -/
theorem test_nop : gives (exec .nop full) (fun t =>
    decide (lastResponse t = some (.respond .ok 0#32))) = true := by decide

/-- V10. -/
theorem test_capture : gives (exec .capture full) (fun t =>
    decide (t.sb = memOfList [1#8, 2#8, 3#8, 6#8]) && decide (t.sbCnt = 4) &&
      decide (t.inCnt = 0) && decide (t.binCnt = 0) && !t.colValid && t.dfValid) = true := by decide

/-- R171's example, V14. -/
theorem test_rmdc : gives (exec .rmdc full) (fun t =>
    decide (t.sum = 12) && decide (t.meanFx = 12) &&
      decide (t.cs = memOfList [-8, -4, 0, 12])) = true := by decide

/-- R310's example, V18. -/
theorem test_rmdc_seq : gives (exec .rmdc fresh) (fun t =>
    decide (t.mode = .halted) &&
      decide (lastResponse t = some (.respond .fault 0x00001022#32))) = true := by decide

/-- R193's example, V21. -/
theorem test_xfexec : gives (exec .xfexec full) (fun t =>
    decide (t.binIm = memOfList [0, -1016, 0]) && decide (t.binRe = memOfList [0, 0, 0]) &&
      decide (t.binCnt = 3) && !t.colValid) = true := by decide

/-- V51: NOINIT before LEN. -/
theorem test_xfexec_noinit : gives (exec .xfexec fresh) (fun t =>
    decide (lastResponse t = some (.respond .fault 0x00002034#32))) = true := by decide

/-- V30. -/
theorem test_map : gives (exec .map full) (fun t =>
    decide (t.colBin = memOfList [0, 0, 0, 0, 1, 1, 1]) &&
      decide (t.colH = memOfList (List.replicate 7 3#5)) &&
      decide (t.lbl = memOfList [0#16, 2#16]) && t.colValid) = true := by decide

/-- V35: profile TL, live gain 7. -/
theorem test_map_live :
    gives (exec .map { full with
        cfg := Config.profileTL, binRe := memOfList [0, -8, -16]
        binIm := memOfList [0, 16, 0] }) (fun t =>
      decide (t.gainLatch = 7#16) &&
        decide (t.colH = memOfList [0#5, 0#5, 0#5, 0#5, 2#5, 2#5, 2#5])) = true := by decide

/-- V40: the picture with all heights 0. -/
theorem test_render :
    gives (exec .render { full with colH := memOfList (List.replicate 7 0#5) }) (fun t =>
      decide (t.df = memOfList
        ([1#1, 0#1, 1#1, 0#1, 1#1, 0#1, 1#1, 1#1, 1#1, 0#1, 0#1, 0#1, 0#1, 0#1, 0#1, 1#1,
          1#1, 0#1, 1#1, 0#1, 1#1, 0#1, 1#1, 1#1, 1#1, 0#1, 0#1, 0#1, 0#1, 0#1, 0#1, 1#1] ++
          List.replicate 64 0#1)) &&
        decide (t.txt = [⟨0, 4, 1, [0x30#8, 0x6B#8]⟩, ⟨2, 4, 1, [0x32#8, 0x6B#8]⟩])) = true := by
  decide

/-- V44. -/
theorem test_flush : gives (exec .flush full) (fun t =>
    decide (t.dev = some ⟨full.df, full.txt⟩) &&
      decide (lastResponse t = some (.respond .ok 0#32))) = true := by decide

/-- V44: the display answers `ok = 0`. -/
theorem test_flush_dispfail :
    gives (exec .flush { full with env := { full.env with flushes := [false] } }) (fun t =>
      decide (t.mode = .halted) &&
        decide (lastResponse t = some (.respond .fault 0x00005067#32))) = true := by decide

/-- V20. -/
theorem test_xfinit : gives (exec .xfinit unready) (fun t =>
    t.xfReady && decide (t.xfHandle = 0x2A#32)) = true := by decide

/-- V26, V50: a second init. -/
theorem test_xfinit_reinit : gives (exec .xfinit full) (fun t =>
    decide (lastResponse t = some (.respond .fault 0x00007105#32))) = true := by decide

/-- V26. -/
theorem test_xfrel : gives (exec .xfrel full) (fun t =>
    !t.xfReady && decide (t.xfHandle = 0#32) && decide (t.binCnt = 3)) = true := by decide

/-- R143, R146. -/
theorem test_frame : gives (exec .frame full) (fun t =>
    decide (t.mode = .frame1) && decide (t.seq = .capture) && !t.cmdReady) = true := by decide

theorem test_run : gives (exec .run full) (fun t =>
    decide (t.mode = .run) && !t.cmdReady) = true := by decide

/-- The last stage of a FRAME answers. -/
theorem test_frame_ends : gives (step inFrame) (fun t =>
    decide (t.mode = .idle) && decide (t.seq = .capture) &&
      decide (lastResponse t = some (.respond .ok 0#32))) = true := by decide

/-- R291's example: CS element -8. -/
theorem test_ld_cs : gives (exec (.ld 2 0) { full with cs := memOfList [-8, -4, 0, 12] }) (fun t =>
    decide (lastResponse t = some (.respond .ok 0xFFFFFFF8#32))) = true := by decide

/-- V47, R295: `LD SB, N` after reset is IDX, `LD SB, 0` is UNWR. -/
theorem test_ld_faults :
    gives (exec (.ld 1 4) fresh) (fun t => decide (t.fault = ⟨8#4, 0x20#8, 7#3⟩)) = true ∧
    gives (exec (.ld 1 0) fresh) (fun t => decide (t.fault = ⟨9#4, 0x20#8, 7#3⟩)) = true := by
  decide

/-- R302's example: the word 0x07000000. -/
theorem test_illegal : gives (takeWord 0x07000000#32 full) (fun t =>
    decide (lastResponse t = some (.respond .fault 0x00007071#32))) = true := by decide

/-- R42 to R45: profile B's words. -/
theorem test_parameter_words :
    csrRead State.reset 0x01 = some 0x000B7D3A#32 ∧ csrRead State.reset 0x02 = some 0x1820807F#32 ∧
      csrRead State.reset 0x03 = some 0x0000C350#32 ∧
      csrRead State.reset 0x04 = some 0x002F0001#32 := by decide

/-- V38: level 1, ZSNAP 0, `ZOOM_MAX[1] = 1`. -/
theorem test_zoom_word : zoomWord { full with zoomLevel := 1#4 } = 0x00010001#32 := by decide

/-- V36: one event in profile B; V39: an event in HALTED. -/
theorem test_zoom_event :
    gives (step { State.reset with env := { Env.quiet with sched := [.zoom] } }) (fun t =>
      decide (t.zoomLevel = 1#4)) = true ∧
    gives (step { halted with env := { Env.quiet with sched := [.zoom] } }) (fun t =>
      decide (t.zoomLevel = 1#4) && decide (t.mode = .halted)) = true := by decide

/-- V60, V61: reset. -/
theorem test_reset_step :
    gives (step { halted with env := { Env.quiet with sched := [.reset] } }) (fun t =>
      decide (t = State.resetOf profileRef)) = true := by decide

/-- A word placed by `withFetchWord` is the first command after reset (V18: RMDC). -/
theorem test_with_fetch_word : gives (step (State.reset.withFetchWord 32 0x02000000)) (fun t =>
    decide (t.fault = ⟨2#4, 0x02#8, 1#3⟩)) = true := by decide

/-- P3, its end: a FRAME that is refused gives its turns up, and the `.zoom` after it falls before the
`LD CSR, ZOOM` after that. -/
theorem test_script_zoom :
    gives (stepN 4 (withScript halted
      [.command .frame, .zoom .afterResponse, .ldcsr .zoom])) (fun t =>
      decide (lastResponse t = some (.respond .ok 0x00010001#32))) = true := by decide

/-- V61, the FRAME row: the fault is answered, then `.reset`, then `NOP`. -/
theorem test_script_reset :
    gives (stepN 4 (withScript { inFrame with seq := .xfexec, xfReady := false }
      [.reset .afterResponse, .command .nop])) (fun t =>
      decide (responses t.history = [.respond .fault 0x00002084#32, .respond .ok 0#32]) &&
        decide (t.mode = .idle)) = true := by decide

/-- R364: a directive takes no word, however soon the command before it has ended: the `.zoom` falls
before the `LD CSR, ZOOM` after it. -/
theorem test_script_place :
    gives (stepN 4 (withScript halted
      [.command .frame, .zoom (.afterStages 1), .ldcsr .zoom])) (fun t =>
      decide (lastResponse t = some (.respond .ok 0x00010001#32))) = true := by decide

/-- R54: a request the engine never answers is recorded, and so are the beats that crossed the port. -/
theorem test_unanswered :
    gives (exec .xfinit { unready with env := { full.env with xfLeft := some 0 } }) (fun t =>
      decide (t.history = [.xfInitRequest 4])) = true ∧
    gives (exec .xfexec { full with env := { full.env with xfLeft := some 5 } }) (fun t =>
      decide (t.history = [.xfExec 0x2A#32 [0, 508, 0, -508] [(0, 0)]])) = true := by decide

/-! ### Witnesses: a state and operands that meet the hypotheses of each statement -/

theorem full_idle : full.idleReady := ⟨rfl, rfl⟩
theorem full_valid : full.cfg.Valid := by decide
theorem unready_idle : unready.idleReady := ⟨rfl, rfl⟩
theorem fresh_idle : fresh.idleReady := ⟨rfl, rfl⟩

theorem answers_some {k want : Nat} (h : want ≤ k) : answers (some k) want := by
  rintro _ ⟨⟩; exact h

/-- DecodeOfEncode: both operands at their largest. -/
theorem witness_wellFormed : (Instr.ld 15 65535).wellFormed = true := by decide

/-- EncodeOfDecode. -/
theorem witness_decodes : decode 0x20F0FFFF#32 = .ok (.ld 15 65535) := by decide

/-- IllegalWordFaults, each clause: the reserved bytes at the ends of their ranges, and one bit of the
`zero` field at each end. -/
theorem witness_illegalWord :
    full.idleReady ∧
    (∀ o ∈ [0x07#8, 0x0A#8, 0x0F#8, 0x12#8, 0x1F#8, 0x21#8, 0xFF#8],
      o ∉ [0x00#8, 0x01#8, 0x02#8, 0x03#8, 0x04#8, 0x05#8, 0x06#8, 0x08#8, 0x09#8, 0x10#8,
        0x11#8, 0x20#8]) ∧
    opField 0x20010000#32 = 0x20#8 ∧ BitVec.extractLsb' 16 4 0x20010000#32 ≠ 0#4 ∧
    opField 0x00800000#32 = 0x00#8 ∧ BitVec.extractLsb' 0 24 0x00800000#32 ≠ 0#24 ∧
    opField 0x11000001#32 = 0x11#8 ∧ BitVec.extractLsb' 0 24 0x11000001#32 ≠ 0#24 := by
  refine ⟨full_idle, ?_⟩; decide

/-- StepRunsDecodedCommand, with an empty schedule, with a sequencer turn and with a held word; a legal
and an illegal word. -/
theorem witness_step :
    full.cfg.Valid ∧ full.cmdReady = true ∧ decode 0x01000000#32 = .ok .capture ∧
    decode 0x07000000#32 = .error (.reservedOpcode 0x07#8) ∧
    (full.given [0x01000000#32] []).wordIsNext ∧
    (full.given [0x07000000#32] [.sequencer, .zoom]).wordIsNext ∧
    (full.given [0x01000000#32] [.word, .zoom]).wordIsNext :=
  ⟨full_valid, by decide, by decide, by decide, .inl (.inl rfl), .inl (.inr ⟨_, rfl⟩),
    .inr ⟨_, rfl⟩⟩

/-- StepOfOtherTurns, each clause. -/
theorem witness_otherTurns :
    full.cfg.Valid ∧ (full.given [] [.zoom]).env.sched = .zoom :: [] ∧
    (full.given [] [.reset]).env.sched = .reset :: [] ∧
    (full.wordIsNext ∧ full.cmdReady = true ∧ full.env.cmds = []) ∧
    (stuckOnDisplay.sequencerIsNext ∧ stuckOnDisplay.waiting.isSome = true ∧
      stuckOnDisplay.mode ≠ .halted) ∧
    (inFrame.sequencerIsNext ∧ inFrame.waiting = none ∧ inFrame.mode = .frame1) ∧
    ((inFrame.given [] [.word]).env.sched = .word :: [] ∧ inFrame.cmdReady = false ∧
      stuckOnDisplay.cmdReady = false ∧ stuckOnDisplay.waiting.isSome = true) ∧
    ((inFrame.given [] [.answered]).env.sched = .answered :: [] ∧ full.cmdReady = true) ∧
    (inFrame.given [] [.stage]).env.sched = .stage :: [] :=
  ⟨full_valid, rfl, rfl, ⟨.inl (.inl rfl), by decide, rfl⟩, ⟨.inl rfl, rfl, by decide⟩,
    ⟨.inl rfl, rfl, rfl⟩, ⟨rfl, by decide, by decide, rfl⟩, ⟨rfl, by decide⟩, rfl⟩

/-- ResetRestoresEverything: from MODE HALTED. -/
theorem witness_reset :
    (halted.given [] [.reset]).cfg.Valid ∧ (halted.given [] [.reset]).env.sched = .reset :: [] :=
  ⟨by decide, rfl⟩

/-- NopAnswersOk, HaltedAnswersEveryWord, each clause: NOP, LD, a legal word, an illegal word. -/
theorem witness_halted :
    full.idleReady ∧ halted.mode = .halted ∧ decode 0x00000000#32 = .ok .nop ∧
    decode 0x20000000#32 = .ok (.ld 0 0) ∧ decode 0x08000000#32 = .ok .frame ∧
    decode 0xFF000000#32 = .error (.reservedOpcode 0xFF#8) := by
  refine ⟨full_idle, ?_⟩; decide

/-- OnlyResetLeavesHalted. -/
theorem witness_staysHalted :
    halted.mode = .halted ∧ halted.env.sched.head? ≠ some .reset ∧
    gives (step halted) (fun _ => true) = true := by decide

/-- CaptureFillsBuffer: the engine answers exactly the drain and N samples. -/
theorem witness_capture : full.idleReady ∧ answers full.env.capLeft (1 + full.cfg.n) :=
  ⟨full_idle, answers_some (by decide)⟩

/-- RmdcCentresSamples, CentredSumZeroAndRange. -/
theorem witness_rmdc :
    full.idleReady ∧ full.cfg.Valid ∧ full.sbCnt = full.cfg.n ∧
    [1#8, 2#8, 3#8, 6#8].length = full.cfg.n ∧
    (∀ k, k < full.cfg.n → memRead full.sb k = [1#8, 2#8, 3#8, 6#8][k]?) := by
  refine ⟨full_idle, full_valid, ?_⟩; decide

/-- CentredSumZeroAndRange, the clause of identical samples; AccumulatorAndDividerExact. -/
theorem witness_identical :
    ({ full with sb := memOfList (List.replicate 4 255#8) } : State).idleReady ∧
    (List.replicate 4 255#8).length = full.cfg.n ∧
    (∀ k, k < full.cfg.n →
      memRead (memOfList (List.replicate 4 255#8)) k = (List.replicate 4 255#8)[k]?) := by
  refine ⟨⟨rfl, rfl⟩, ?_⟩; decide

/-- AccumulatorAndDividerExact, the clause of N 4096: the largest admitted LOGN. -/
theorem witness_largest_n :
    ({ Config.profileT with logN := 12, zoomMax := [2048] } : Config).Valid := by decide

/-- XfexecStoresBins: the engine answers exactly N + NB handshakes. -/
theorem witness_xfexec :
    full.idleReady ∧ full.cfg.Valid ∧ full.xfReady = true ∧ full.inCnt = full.cfg.n ∧
    ([0, 508, 0, -508] : List Int).length = full.cfg.n ∧
    (∀ k, k < full.cfg.n → memRead full.cs k = ([0, 508, 0, -508] : List Int)[k]?) ∧
    answers full.env.xfLeft (full.cfg.n + full.cfg.nb) := by
  refine ⟨full_idle, full_valid, ?_, ?_, ?_, ?_, answers_some (by decide)⟩ <;> decide

/-- MapComputesColumns in fixed mode. -/
theorem witness_map :
    full.idleReady ∧ full.cfg.Valid ∧ full.zoomLevel.toNat < full.cfg.levels ∧
    full.binCnt = full.cfg.nb ∧
    (∀ k, k < full.cfg.nb → memRead full.binRe k = some ((fun _ => 0) k) ∧
      memRead full.binIm k = some ((fun i => if i = 1 then -1016 else 0) k)) := by
  refine ⟨full_idle, full_valid, ?_⟩; decide

/-- `full` with profile TL, live gain at its largest reading, and all bins zero. -/
def live : State :=
  { full with
    cfg := Config.profileTL, binIm := memOfList [0, 0, 0]
    env := { full.env with gains := [4095#16] } }

/-- MapComputesColumns in live mode; ZeroBinsGiveZeroHeights. -/
theorem witness_map_live :
    live.idleReady ∧ live.cfg.Valid ∧ live.zoomLevel.toNat < live.cfg.levels ∧
    live.binCnt = live.cfg.nb ∧ live.cfg.gainLive = true ∧
    live.env.gains.head? = some 4095#16 ∧ (4095#16).toNat < 2 ^ live.cfg.gainW ∧
    (∀ k, k < live.cfg.nb → memRead live.binRe k = some 0 ∧ memRead live.binIm k = some 0) := by
  refine ⟨⟨rfl, rfl⟩, ?_⟩; decide

/-- HeightMonotone, FrequencyMappingIgnoresGain: two MAPs that differ in the gain taken. -/
theorem witness_two_maps :
    live.idleReady ∧ live.cfg.Valid ∧ live.cfg.gainLive = true ∧ live.binCnt = live.cfg.nb ∧
    gives (exec .map { live with env := { live.env with gains := [0#16] } }) (fun t₁ =>
      gives (exec .map live) (fun t₂ =>
        decide (t₁.gainLatch.toNat ≤ t₂.gainLatch.toNat) &&
          (memRead t₁.colH 0).isSome && (memRead t₂.colH 0).isSome)) = true := by
  refine ⟨⟨rfl, rfl⟩, ?_⟩; decide

/-- BinIndexRange, at the last column, and both sides of `M <= W_COLS`. -/
theorem witness_binIndex :
    Config.profileT.Valid ∧ 2 ∈ Config.profileT.zoomMax ∧ 6 < Config.profileT.wCols ∧
    2 ≤ Config.profileT.wCols ∧ Config.profileB.Valid ∧ 512 ∈ Config.profileB.zoomMax ∧
    ¬ 512 ≤ Config.profileB.wCols := by
  refine ⟨?_, ?_, ?_, ?_, ?_, ?_, ?_⟩ <;> decide

/-- EnergyWidths: the most negative parts. -/
theorem witness_energy :
    Config.profileT.Valid ∧ signedIn Config.profileT.bw (-32768) ∧
    signedIn Config.profileT.bw 32767 := by
  refine ⟨by decide, ?_, ?_⟩ <;> constructor <;> decide

/-- HeightIsClampedFloor, LabelRoundsToNearest, ParameterCsrs, StatusCsrs: a valid record; the last
bin. -/
theorem witness_valid : Config.profileB.Valid ∧ 512 ≤ Config.profileB.n / 2 := by decide

/-- RenderedBitmap, RenderLabelsAndFrame: the display answers exactly the clear, the 20 + 21 pixels and the
two labels. -/
theorem witness_render :
    full.idleReady ∧ full.cfg.Valid ∧ full.colValid = true ∧
    (∀ x, x < full.cfg.wCols → memRead full.colH x = some ((fun _ => 3#5) x) ∧
      (3#5).toNat ≤ full.cfg.barH) ∧
    (∀ j, j < full.cfg.nlbl →
      memRead full.lbl j = some ((fun j => if j = 0 then 0#16 else 2#16) j)) ∧
    answers full.env.dispLeft (renderRequests full.cfg
      ((List.range full.cfg.wCols).map (fun _ => 3#5))
      ((List.range full.cfg.nlbl).map (fun j => if j = 0 then 0#16 else 2#16))).length := by
  refine ⟨full_idle, full_valid, ?_, ?_, ?_, answers_some (by decide)⟩ <;> decide

/-- RequestsInsideBitmap: bars of full height and the widest label. -/
theorem witness_requests :
    Config.profileT.Valid ∧ (List.replicate 7 4#5).length = Config.profileT.wCols ∧
    (∀ h ∈ List.replicate 7 4#5, h.toNat ≤ Config.profileT.barH) ∧
    (∀ v ∈ [0#16, 524#16], v.toNat ≤ 524) := by
  refine ⟨by decide, by decide, by decide, by simp⟩

/-- FlushHandsFrameOver, each clause: `ok = 1`, `ok = 0`, an answer beyond the tape, no frame. -/
theorem witness_flush :
    full.idleReady ∧ full.dfValid = true ∧
    answers ({ full.env with dispLeft := some 2 } : Env).dispLeft 2 ∧
    full.env.flushes = true :: [] ∧
    ({ full.env with flushes := [false] } : Env).flushes = false :: [] ∧
    ({ full.env with flushes := [] } : Env).flushes = [] ∧
    fresh.idleReady ∧ fresh.dfValid = false :=
  ⟨full_idle, rfl, answers_some (by decide), rfl, rfl, rfl, fresh_idle, rfl⟩

/-- XfinitInitialises, each clause, with the largest handle and with an answer beyond the tape. -/
theorem witness_xfinit :
    unready.idleReady ∧ (0xFFFF#32).toNat < 2 ^ unready.cfg.handleW ∧ unready.xfReady = false ∧
    answers ({ unready.env with xfLeft := some 1 } : Env).xfLeft 1 ∧
    ({ unready.env with inits := [(true, 0xFFFF#32)] } : Env).inits = (true, 0xFFFF#32) :: [] ∧
    ({ unready.env with inits := [(false, 0xFFFF#32)] } : Env).inits = (false, 0xFFFF#32) :: [] ∧
    ({ unready.env with inits := [] } : Env).inits = [] ∧
    full.idleReady ∧ full.xfReady = true :=
  ⟨unready_idle, by decide, rfl, answers_some (by decide), rfl, rfl, rfl, full_idle, rfl⟩

/-- XfrelReleases, each clause. -/
theorem witness_xfrel :
    full.idleReady ∧ full.xfReady = true ∧
    answers ({ full.env with xfLeft := some 1 } : Env).xfLeft 1 ∧
    unready.idleReady ∧ unready.xfReady = false :=
  ⟨full_idle, rfl, answers_some (by decide), unready_idle, rfl⟩

/-- StageOutOfSequenceFaults, XfexecChecksHandleThenLength: reset meets every clause but LEN's, which
one element less than N meets. -/
theorem witness_outOfSequence :
    fresh.idleReady ∧ fresh.sbCnt ≠ fresh.cfg.n ∧ fresh.binCnt ≠ fresh.cfg.nb ∧
    fresh.colValid = false ∧ fresh.dfValid = false ∧ fresh.xfReady = false ∧
    ({ full with inCnt := 3 } : State).xfReady = true ∧
    ({ full with inCnt := 3 } : State).inCnt ≠ full.cfg.n := by
  refine ⟨fresh_idle, ?_⟩; decide

/-- FaultsArePrecise: RMDC after reset, and a failed flush. -/
theorem witness_fault :
    fresh.mode ≠ .halted ∧
    gives (step (fresh.given [0x02000000#32] [])) (fun t => decide (t.mode = .halted)) = true ∧
    gives (step ({ full with env := { full.env with flushes := [false] } }.given
      [0x06000000#32] [])) (fun t => decide (t.mode = .halted) &&
        decide (t.fault.code = 7#4)) = true := by decide

/-- SilentCollaboratorStalls, each clause at the last count that is too small, and at none. -/
theorem witness_silent :
    full.idleReady ∧ unready.idleReady ∧ 4 < 1 + full.cfg.n ∧ 6 < full.cfg.n + full.cfg.nb ∧
    full.inCnt = full.cfg.n ∧ full.cs.map Prod.fst = List.range full.cfg.n ∧
    full.colH.map Prod.fst = List.range full.cfg.wCols ∧
    full.lbl.map Prod.fst = List.range full.cfg.nlbl ∧
    43 < (renderRequests full.cfg (full.colH.map Prod.snd) (full.lbl.map Prod.snd)).length ∧
    full.dfValid = true ∧
    ({ full.env with capLeft := some 4, xfLeft := some 6, dispLeft := some 1 } : Env).capLeft =
      some 4 ∧
    ({ full.env with xfLeft := some 0, dispLeft := some 0 } : Env).xfLeft = some 0 :=
  ⟨full_idle, unready_idle, by decide, by decide, by decide, by decide, by decide, by decide,
    by decide, rfl, rfl, rfl⟩

/-- OnlyResetEndsWait: a sequencer turn and a zoom event. -/
theorem witness_wait :
    stuckOnDisplay.waiting.isSome = true ∧ stuckOnDisplay.mode ≠ .halted ∧
    stuckOnDisplay.env.sched.head? ≠ some .reset ∧
    gives (step stuckOnDisplay) (fun _ => true) = true ∧
    gives (step (stuckOnDisplay.given [] [.zoom])) (fun _ => true) = true := by decide

/-- LdAnswersElement, each clause at the last element of the space. -/
theorem witness_ld :
    full.cfg.Valid ∧ full.idleReady ∧ halted.mode = .halted ∧
    csrRead full 0x1F = some 0#32 ∧ memRead full.sb 3 = some 6#8 ∧ 3 < full.sbCnt ∧
    memRead full.cs 3 = some (-508) ∧ 3 < full.inCnt ∧ memRead full.binRe 2 = some 0 ∧
    memRead full.binIm 2 = some 0 ∧ 2 < full.binCnt ∧ 2 < full.cfg.nb ∧
    memRead full.colH 6 = some 3#5 ∧ memRead full.colBin 6 = some 1 ∧ 1 < full.cfg.n / 2 ∧
    6 < full.cfg.wCols ∧ memRead full.lbl 1 = some 2#16 ∧ 1 < full.cfg.nlbl ∧
    memRead full.df 95 = some 0#1 ∧ 95 < full.cfg.wPx * full.cfg.hPx ∧
    full.colValid = true ∧ full.dfValid = true := by
  refine ⟨full_valid, full_idle, ?_⟩; decide

/-- LdAnswersElement: the ranges of the signed clauses. -/
theorem witness_ld_signed : signedIn full.cfg.csW (-508) ∧ signedIn full.cfg.bw 0 := by
  constructor <;> constructor <;> decide

/-- LdFaults: each clause of `outsideSpaces` one beyond the last element. -/
theorem witness_outside :
    outsideSpaces full.cfg 10 0 ∧ outsideSpaces full.cfg 15 65535 ∧ outsideSpaces full.cfg 0 0x0F ∧
    outsideSpaces full.cfg 0 0x20 ∧ outsideSpaces full.cfg 1 4 ∧ outsideSpaces full.cfg 2 4 ∧
    outsideSpaces full.cfg 3 3 ∧ outsideSpaces full.cfg 4 3 ∧ outsideSpaces full.cfg 9 3 ∧
    outsideSpaces full.cfg 5 7 ∧ outsideSpaces full.cfg 6 7 ∧ outsideSpaces full.cfg 7 2 ∧
    outsideSpaces full.cfg 8 96 := by
  unfold outsideSpaces
  refine ⟨?_, ?_, ?_, ?_, ?_, ?_, ?_, ?_, ?_, ?_, ?_, ?_, ?_⟩ <;> decide

/-- LdFaults: each clause of `elementEmpty` at the last element of the space, which is inside it. -/
theorem witness_empty :
    (¬ outsideSpaces fresh.cfg 1 3 ∧ fresh.elementEmpty 1 3) ∧
    (¬ outsideSpaces fresh.cfg 2 3 ∧ fresh.elementEmpty 2 3) ∧
    (¬ outsideSpaces fresh.cfg 3 2 ∧ fresh.elementEmpty 3 2) ∧
    (¬ outsideSpaces fresh.cfg 4 2 ∧ fresh.elementEmpty 4 2) ∧
    (¬ outsideSpaces fresh.cfg 5 6 ∧ fresh.elementEmpty 5 6) ∧
    (¬ outsideSpaces fresh.cfg 6 6 ∧ fresh.elementEmpty 6 6) ∧
    (¬ outsideSpaces fresh.cfg 7 1 ∧ fresh.elementEmpty 7 1) ∧
    (¬ outsideSpaces fresh.cfg 8 95 ∧ fresh.elementEmpty 8 95) := by
  unfold outsideSpaces State.elementEmpty
  refine ⟨?_, ?_, ?_, ?_, ?_, ?_, ?_, ?_⟩ <;> constructor <;> decide

/-- StageAdvancesSeq: a completed last stage in FRAME and RUN, a completed stage before it, and a raised
fault. -/
theorem witness_stages :
    inFrame.mode = .frame1 ∧ ({ inFrame with mode := .run } : State).mode = .run ∧
    (∃ u, stageRule inFrame.seq inFrame = .done u) ∧
    (∃ u, stageRule Stage.rmdc { inFrame with seq := .rmdc } = .done u) ∧
    (∃ u, stageRule Stage.xfexec { inFrame with seq := .xfexec, xfReady := false } =
      .raised .noinit u) :=
  ⟨rfl, rfl, ⟨_, rfl⟩, ⟨_, rfl⟩, ⟨_, rfl⟩⟩

/-- StageAdvancesSeq: each stage that can wait, at no handshake and one short of its last. -/
theorem witness_stage_stalls :
    inFrame.seq = .flush ∧ inFrame.dfValid = true ∧ inFrame.colValid = true ∧
    inFrame.xfReady = true ∧ inFrame.inCnt = inFrame.cfg.n ∧ filledTo inFrame.cs inFrame.cfg.n ∧
    filledTo inFrame.colH inFrame.cfg.wCols ∧ filledTo inFrame.lbl inFrame.cfg.nlbl ∧
    (∀ seq want, (seq, want) ∈ [(Stage.capture, 1 + inFrame.cfg.n),
        (.xfexec, inFrame.cfg.n + inFrame.cfg.nb),
        (.render, (renderRequests inFrame.cfg (inFrame.colH.map Prod.snd)
          (inFrame.lbl.map Prod.snd)).length), (.flush, 2)] →
      ∀ k, k = 0 ∨ k = want - 1 →
        gives (runStage { inFrame with
            seq := seq, env := { full.env with capLeft := some k, xfLeft := some k, dispLeft := some k } })
          (fun t => decide (t.mode = .frame1 ∧ t.seq = seq) && t.waiting.isSome) = true) := by
  refine ⟨rfl, rfl, rfl, rfl, rfl, by unfold filledTo; decide, by unfold filledTo; decide,
    by unfold filledTo; decide, ?_⟩
  intro seq want h k hk
  simp only [List.mem_cons, Prod.mk.injEq, List.not_mem_nil, or_false] at h
  rcases h with ⟨rfl, rfl⟩ | ⟨rfl, rfl⟩ | ⟨rfl, rfl⟩ | ⟨rfl, rfl⟩ <;> rcases hk with rfl | rfl <;>
    decide

/-- FaultsInsideFrame, RunNeverCompletes: NOINIT at stage 2 of a FRAME, DISPFAIL at stage 5 of a RUN,
and a RUN that goes on. -/
theorem witness_faultInside :
    gives (step { inFrame with seq := .xfexec, xfReady := false }) (fun t =>
      decide (t.mode = .halted)) = true ∧
    gives (step { inFrame with mode := .run, env := { full.env with flushes := [false] } })
      (fun t => decide (t.mode = .halted)) = true ∧
    gives (step { inFrame with mode := .run }) (fun t => decide (t.mode = .run)) = true := by decide

theorem witness_loopReady :
    ({ inFrame with seq := .xfexec, xfReady := false } : State).loopReady ∧ inFrame.loopReady :=
  ⟨fun _ _ => by show State.csValid _ = true; decide,
    fun _ _ => by show State.dfValid _ = true; decide⟩

/-- ZoomEventSteps, OnlyZoomEventChangesLevel, EveryZoomEventCountsOnce: two events around a sequencer
turn, from the last level. -/
theorem witness_zoom :
    ({ full with zoomLevel := 1#4 } : State).zoomLevel.toNat < full.cfg.levels ∧ full.cfg.Valid ∧
    Turn.reset ∉ [Turn.zoom, .sequencer, .zoom] ∧
    gives (stepN 3 ({ full with zoomLevel := 1#4 }.given [] [.zoom, .sequencer, .zoom]))
      (fun t => decide (t.zoomLevel = 1#4)) = true ∧
    (full.given [] [.sequencer]).env.sched.head? ≠ some .zoom ∧
    gives (step (full.given [0x04000000#32] [.sequencer])) (fun _ => true) = true := by decide

/-- The state after reset, profile T, meets every invariant. -/
theorem witness_inv : fresh.Inv := by
  refine ⟨by decide, ?_, ?_, ?_, ⟨by decide, by decide⟩, ⟨fun _ => rfl, by decide, by decide, ?_⟩,
    ⟨fun _ => rfl, fun _ => rfl⟩, ?_⟩
  · unfold State.buffersFilled filledTo; decide
  · intro _; exact ⟨.inl rfl, .inl rfl, .inl rfl⟩
  · refine ⟨by decide, by decide, by decide, by decide, ?_, ?_, ?_, ?_, ?_, by decide, by decide⟩ <;>
      intro p hp <;> cases hp
  · intro h; cases h
  · rintro (h | h) <;> cases h

/-- The invariant statements: the state after reset takes a step. -/
theorem witness_inv_step :
    gives (step (fresh.given [0x01000000#32] [])) (fun _ => true) = true ∧
    fresh.countersInRange ∧ fresh.memoriesCanonical ∧ fresh.columnsOfZsnap := by
  refine ⟨by decide, ⟨by decide, by decide, by decide⟩, ?_, ?_⟩
  · unfold State.memoriesCanonical; decide
  · intro h; cases h

/-- FrameEqualsPipe, SilentFrame: after reset and an XFINIT, four samples of 128. -/
def booted : State :=
  { fresh with
    xfReady := true, xfHandle := 0x2A#32
    env := { Env.quiet with
      cmds := [encode .frame], samples := List.replicate 4 128#8, flushes := [true] } }

theorem witness_frame :
    booted.Inv ∧ booted.idleReady ∧ [0, 1, 0, 2, 0, 0].length = 6 ∧ booted.xfReady = true ∧
    booted.env.sched = [] ∧ booted.env.cmds = encode .frame :: [] ∧
    booted.env.samples = List.replicate booted.cfg.n 128#8 ++ [] ∧
    booted.env.flushes = true :: [] ∧ booted.env.capLeft = none ∧ booted.env.xfLeft = none ∧
    booted.env.dispLeft = none := by
  refine ⟨?_, ⟨rfl, rfl⟩, rfl, rfl, rfl, rfl, by decide, rfl, rfl, rfl, rfl⟩
  obtain ⟨h1, h2, h3, h4, h5, h6, -, h8⟩ := witness_inv
  refine ⟨h1, h2, h3, ?_, h5, h6, ⟨?_, fun _ => rfl⟩, h8⟩
  · exact ⟨h4.1, h4.2.1, h4.2.2.1, by decide, h4.2.2.2.2⟩
  · intro h; cases h

end Sys2Proof.Tests
end

section
/-! SUPPORT. The control and status registers of 10_state.md section 5 field by field, the reset
values of R56 and the output pins of R55: the words that CSRs are built from, then the statements. -/

namespace Sys2Proof.Machine

/-! ### What a valid record bounds -/

/-- LOGN is at most 12 (00_scope.md section 4). -/
theorem n_le_of_valid {c : Config} (hc : c.Valid) : c.n ≤ 4096 := by
  obtain ⟨⟨-, hlogN⟩, -⟩ := hc
  exact Nat.pow_le_pow_right (by omega) hlogN

/-- ZOOM_MAX fits the 12 bits of the ZOOM CSR, at the level of a listed entry and above (R48). -/
theorem zoomAt_lt_of_valid {c : Config} (hc : c.Valid) (l : Nat) : c.zoomAt l < 2 ^ 12 := by
  have hn := n_le_of_valid hc
  obtain ⟨-, -, -, -, -, -, -, -, hzoom, -⟩ := hc
  unfold Config.zoomAt
  by_cases hl : l < c.zoomMax.length
  · have hmem : c.zoomMax.getD l 0 ∈ c.zoomMax := by
      rw [List.getD_eq_getElem _ _ hl]
      exact List.getElem_mem hl
    have := (hzoom _ hmem).2
    omega
  · simp [hl]

/-! ### A field of a CSR word -/

theorem getLsbD_field (v width lo i : Nat) :
    (field v width lo).getLsbD i =
      (decide (i < 32) && decide (lo ≤ i) && decide (i - lo < width) && v.testBit (i - lo)) := by
  simp [field, BitVec.getLsbD_ofNat, Nat.testBit_mul_two_pow, Nat.testBit_mod_two_pow,
    Bool.and_assoc]

/-- The bits of a field are the low bits of its value. -/
theorem extractLsb'_field_same (v : Nat) {width lo : Nat} (h : lo + width ≤ 32) :
    (field v width lo).extractLsb' lo width = BitVec.ofNat width v := by
  ext i hi
  rw [BitVec.getElem_extractLsb', getLsbD_field, ← BitVec.getLsbD_eq_getElem, BitVec.getLsbD_ofNat]
  simp [hi, show lo + i < 32 by omega]

/-- A field is 0 outside its bits. -/
theorem extractLsb'_field_disjoint (v : Nat) {width lo start len : Nat}
    (h : start + len ≤ lo ∨ lo + width ≤ start) :
    (field v width lo).extractLsb' start len = 0#len := by
  ext i hi
  rw [BitVec.getElem_extractLsb', getLsbD_field]
  have hout : lo ≤ start + i → ¬ start + i - lo < width := by omega
  by_cases hlo : lo ≤ start + i
  · simp [hout hlo]
  · simp [hlo]

/-- A value that fits its field is read back from it. -/
theorem toNat_ofNat_of_lt {width v : Nat} (h : v < 2 ^ width) :
    (BitVec.ofNat width v).toNat = v := by
  simp [Nat.mod_eq_of_lt h]

/-! ### Each word, field by field -/

theorem cfg0Word_fields (c : Config) :
    (cfg0Word c).extractLsb' 0 4 = BitVec.ofNat 4 c.logN ∧
    (cfg0Word c).extractLsb' 4 4 = BitVec.ofNat 4 (c.levels - 1) ∧
    (cfg0Word c).getLsbD 8 = c.agg ∧ (cfg0Word c).getLsbD 9 = c.gainLive ∧
    (cfg0Word c).extractLsb' 10 5 = BitVec.ofNat 5 (c.bw - 1) ∧
    (cfg0Word c).getLsbD 15 = false ∧
    (cfg0Word c).extractLsb' 16 4 = BitVec.ofNat 4 (c.gainW - 1) ∧
    (cfg0Word c).extractLsb' 20 12 = 0#12 := by
  simp only [cfg0Word, BitVec.extractLsb'_or, BitVec.getLsbD_or, getLsbD_field]
  simp [extractLsb'_field_same, extractLsb'_field_disjoint, Nat.testBit_bool_toNat,
    -Nat.testBit_zero]

theorem cfg1Word_fields (c : Config) :
    (cfg1Word c).extractLsb' 0 8 = BitVec.ofNat 8 c.wCols ∧
    (cfg1Word c).extractLsb' 8 8 = BitVec.ofNat 8 c.wPx ∧
    (cfg1Word c).extractLsb' 16 8 = BitVec.ofNat 8 c.hPx ∧
    (cfg1Word c).extractLsb' 24 8 = BitVec.ofNat 8 c.barH := by
  simp [cfg1Word, extractLsb'_field_same, extractLsb'_field_disjoint, BitVec.extractLsb'_or]

theorem scaleWord_fields (c : Config) :
    (scaleWord c).extractLsb' 0 16 = BitVec.ofNat 16 c.scaleMul ∧
    (scaleWord c).extractLsb' 16 7 = BitVec.ofNat 7 c.scaleShift ∧
    (scaleWord c).extractLsb' 23 9 = 0#9 := by
  simp [scaleWord, extractLsb'_field_same, extractLsb'_field_disjoint, BitVec.extractLsb'_or]

theorem zoomWord_fields (s : State) :
    (zoomWord s).extractLsb' 0 4 = s.zoomLevel ∧ (zoomWord s).extractLsb' 4 4 = s.zsnap ∧
    (zoomWord s).extractLsb' 8 8 = 0#8 ∧
    (zoomWord s).extractLsb' 16 12 = BitVec.ofNat 12 (s.cfg.zoomAt s.zoomLevel.toNat) ∧
    (zoomWord s).extractLsb' 28 4 = 0#4 := by
  simp [zoomWord, extractLsb'_field_same, extractLsb'_field_disjoint, BitVec.extractLsb'_or]

theorem statusWord_fields (s : State) :
    s.statusWord.getLsbD 0 = decide (s.mode = .halted) ∧ s.statusWord.getLsbD 1 = s.xfReady ∧
    s.statusWord.getLsbD 2 = s.colValid ∧ s.statusWord.getLsbD 3 = s.dfValid ∧
    s.statusWord.extractLsb' 4 2 = s.mode.code ∧ s.statusWord.extractLsb' 6 3 = s.seq.index ∧
    s.statusWord.extractLsb' 9 23 = 0#23 := by
  simp only [State.statusWord, bit, BitVec.getLsbD_append, BitVec.extractLsb'_append_eq_ite]
  simp

theorem faultWord_fields (f : FaultReg) :
    f.word.extractLsb' 0 4 = f.code ∧ f.word.extractLsb' 4 8 = f.op ∧
    f.word.extractLsb' 12 3 = f.stage ∧ f.word.extractLsb' 15 17 = 0#17 := by
  simp only [FaultReg.word, BitVec.extractLsb'_append_eq_ite]
  simp

/-! ### The address map -/

/-- The addresses above the named CSRs are ZOOM_TAB (R49). -/
theorem csrRead_zoomTab (s : State) {l : Nat} (hl : l < 16) :
    csrRead s (0x10 + l) = some (BitVec.ofNat 32 (s.cfg.zoomAt l)) := by
  rw [Nat.add_comm]
  show (if 0x10 ≤ l + 0x10 ∧ l + 0x10 < 0x20
    then some (BitVec.ofNat 32 (s.cfg.zoomAt (l + 0x10 - 0x10))) else none) = _
  rw [if_pos (by omega), Nat.add_sub_cancel]

/-- A CSR that R40 lists as constant depends on the parameter record alone. -/
theorem csrRead_congr_cfg {s t : State} (h : s.cfg = t.cfg) {a : Nat}
    (ha : a ∈ [0x00, 0x01, 0x02, 0x03, 0x04] ∨ (0x10 ≤ a ∧ a < 0x20)) :
    csrRead s a = csrRead t a := by
  rcases ha with ha | ⟨hlo, hhi⟩
  · simp only [List.mem_cons, List.not_mem_nil, or_false] at ha
    rcases ha with rfl | rfl | rfl | rfl | rfl <;> simp [csrRead, h]
  · obtain ⟨l, rfl⟩ := Nat.exists_eq_add_of_le hlo
    rw [csrRead_zoomTab s (by omega), csrRead_zoomTab t (by omega), h]

/-! ### The statements -/

/-- Settles O41: each field is its parameter's value because a valid record's value
fits the field. -/
theorem parameterCsrs : Obligations.ParameterCsrs := by
  unfold Obligations.ParameterCsrs
  refine ⟨fun s hc => ?_, by decide, by decide, by decide, by decide⟩
  have hzoomAt := zoomAt_lt_of_valid hc
  obtain ⟨⟨-, hlogN⟩, ⟨-, hfs⟩, ⟨-, hbw⟩, ⟨-, hwPx⟩, ⟨-, hhPx⟩, ⟨-, hwCols⟩, ⟨-, hbarH⟩,
    ⟨-, hlevels⟩, -, -, ⟨-, hgainW⟩, ⟨-, hmul⟩, hshift, -⟩ := hc
  refine ⟨rfl, ⟨_, rfl, ?_⟩, ⟨_, rfl, ?_⟩, ⟨_, rfl, toNat_ofNat_of_lt (by omega)⟩, ⟨_, rfl, ?_⟩,
    fun l hl => ⟨_, csrRead_zoomTab s hl, ?_⟩⟩
  · obtain ⟨e0, e4, e8, e9, e10, e15, e16, e20⟩ := cfg0Word_fields s.cfg
    rw [e0, e4, e10, e16]
    exact ⟨toNat_ofNat_of_lt (by omega), toNat_ofNat_of_lt (by omega), e8, e9,
      toNat_ofNat_of_lt (by omega), e15, toNat_ofNat_of_lt (by omega), e20⟩
  · obtain ⟨e0, e8, e16, e24⟩ := cfg1Word_fields s.cfg
    rw [e0, e8, e16, e24]
    exact ⟨toNat_ofNat_of_lt (by omega), toNat_ofNat_of_lt (by omega),
      toNat_ofNat_of_lt (by omega), toNat_ofNat_of_lt (by omega)⟩
  · obtain ⟨e0, e16, e23⟩ := scaleWord_fields s.cfg
    rw [e0, e16]
    exact ⟨toNat_ofNat_of_lt (by omega), toNat_ofNat_of_lt (by omega), e23⟩
  · rw [toNat_ofNat_of_lt (by have := hzoomAt l; omega)]
    unfold Config.zoomAt Config.levels
    split
    · rfl
    · next h => simp [h]

/-- Settles O42: the words' fields, and the ranges of the data registers, which fit 32 bits. -/
theorem statusCsrs : Obligations.StatusCsrs := by
  unfold Obligations.StatusCsrs
  refine ⟨fun s hc => ⟨⟨_, rfl, ?_⟩, ⟨_, rfl, faultWord_fields s.fault⟩, ⟨_, rfl, ?_⟩, ?_⟩,
    fun c hc => ?_⟩
  · obtain ⟨e0, e⟩ := statusWord_fields s
    exact ⟨by rw [e0, decide_eq_true_iff], e⟩
  · obtain ⟨e0, e4, e8, e16, e28⟩ := zoomWord_fields s
    rw [e16]
    exact ⟨e0, e4, e8, toNat_ofNat_of_lt (zoomAt_lt_of_valid hc _), e28⟩
  · rintro ⟨-, hsb, -, hin, -, -, hbin, -⟩ ⟨hsum, hmean, -⟩
    have hn := n_le_of_valid hc
    have hnb : s.cfg.nb ≤ 2049 := by unfold Config.nb; omega
    have hw : 2 ^ (8 + s.cfg.logN) ≤ 2 ^ 20 := Nat.pow_le_pow_right (by omega) (by omega)
    unfold Config.sumW at hsum
    unfold Config.frac at hmean
    exact ⟨⟨_, rfl, toNat_ofNat_of_lt (by omega)⟩, ⟨_, rfl, toNat_ofNat_of_lt (by omega)⟩,
      ⟨_, rfl, toNat_ofNat_of_lt (by omega)⟩, ⟨_, rfl, toNat_ofNat_of_lt (by omega)⟩,
      ⟨_, rfl, toNat_ofNat_of_lt (by omega)⟩,
      ⟨_, rfl, BitVec.toNat_setWidth_of_le (by omega)⟩, rfl⟩
  · have hlt := Nat.mod_eq_of_lt (zoomAt_lt_of_valid hc 0)
    show some (zoomWord (State.resetOf c)) = _
    simp only [zoomWord, field, State.resetOf, BitVec.toNat_ofNat, Nat.zero_mod, hlt]
    simp

/-- Settles O8: the registers by evaluation, LBL_KHZ through its list of indices, the constant CSRs
because a reset keeps the record they depend on. -/
theorem resetValues : Obligations.ResetValues := by
  unfold Obligations.ResetValues
  intro c
  have hlbl : ∀ j, j < c.nlbl → memRead (State.resetOf c).lbl j = some 0#16 := by
    intro j hj
    have hkeys : (State.resetOf c).lbl.map Prod.fst = List.range c.nlbl := by
      simp [State.resetOf, Function.comp_def]
    rw [(memReadRange_eq_some.1 (memReadRange_of_keys hkeys)).2 j hj]
    simp [State.resetOf, hj]
  exact ⟨rfl, rfl, rfl, rfl, rfl, rfl, rfl, rfl, rfl, rfl, rfl, hlbl, rfl, rfl, rfl, rfl, rfl,
    fun s hs a ha => csrRead_congr_cfg hs.symm ha, fun i => rfl⟩

/-- `cmd_ready` is 1 exactly in a state that takes a command (R119). -/
theorem cmdReady_iff (s : State) : s.cmdReady = true ↔ s.idleReady ∨ s.mode = .halted := by
  simp [State.cmdReady, State.idleReady, State.stuck]

/-- `busy` is 1 inside FRAME and RUN and while a command waits (R55). -/
theorem busy_iff (s : State) :
    s.busy = true ↔ s.mode = .frame1 ∨ s.mode = .run ∨ s.waiting ≠ none := by
  simp [State.busy, State.stuck, or_assoc, Option.isSome_iff_ne_none]

/-- Settles O43: without `rst` each pin is the register it shows. -/
theorem pinsShowRegisters : Obligations.PinsShowRegisters := by
  unfold Obligations.PinsShowRegisters
  exact fun s => ⟨decide_eq_true_iff, busy_iff s, rfl, rfl, cmdReady_iff s, rfl⟩

end Sys2Proof.Machine
end

section
/-! SUPPORT. Which words decode, and to what (30_encoding.md R113, R115, R116); what a taken word does
when it is illegal (R115) and when it meets a halted block (R122); the statements that follow. -/

namespace Sys2Proof

/-! ### Fields of a format Z word -/

@[simp] theorem opField_appendZ (o : BitVec 8) (z : BitVec 24) : opField (o ++ z) = o :=
  BitVec.extractLsb'_append_eq_left

@[simp] theorem zeroFieldZ_appendZ (o : BitVec 8) (z : BitVec 24) : zeroFieldZ (o ++ z) = z :=
  BitVec.extractLsb'_append_eq_right

/-! ### The decoder -/

/-- The opcode bytes of format Z (R113). -/
def formatZBytes : List (BitVec 8) :=
  [0x00#8, 0x01#8, 0x02#8, 0x03#8, 0x04#8, 0x05#8, 0x06#8, 0x08#8, 0x09#8, 0x10#8, 0x11#8]

theorem formatZ?_of_not_mem {o : BitVec 8} (ho : o ∉ formatZBytes) : formatZ? o = none := by
  simp only [formatZBytes, List.mem_cons, List.not_mem_nil, or_false, not_or] at ho
  simp [formatZ?, ho]

/-- Every command but LD is of format Z, under its own opcode byte (R113). -/
theorem formatZ?_eq_some_iff {o : BitVec 8} {i : Instr} :
    formatZ? o = some i ↔ i.opcode = o ∧ o ≠ 0x20#8 := by
  constructor
  · intro h
    have ho : o ∈ formatZBytes := by
      by_contra ho
      simp [formatZ?_of_not_mem ho] at h
    simp only [formatZBytes, List.mem_cons, List.not_mem_nil, or_false] at ho
    rcases ho with rfl | rfl | rfl | rfl | rfl | rfl | rfl | rfl | rfl | rfl | rfl <;>
      cases h <;> decide
  · rintro ⟨rfl, hld⟩
    cases i with
    | ld => exact absurd rfl hld
    | _ => rfl

/-- What decodes, and to what: a format Z byte over a zero field, or LD's byte over its zero field. -/
theorem decode_eq_ok_iff {w : Word} {i : Instr} :
    decode w = .ok i ↔
      (formatZ? (opField w) = some i ∧ zeroFieldZ w = 0#24) ∨
      (opField w = 0x20#8 ∧ zeroFieldL w = 0#4 ∧
        i = .ld (spaceField w).toNat (indexField w).toNat) := by
  unfold decode
  cases hz : formatZ? (opField w) with
  | some j =>
    have hld : opField w ≠ 0x20#8 := (formatZ?_eq_some_iff.1 hz).2
    by_cases hzero : zeroFieldZ w = 0#24 <;> simp [hzero, hld]
  | none =>
    by_cases hld : opField w = 0x20#8 <;> by_cases hzero : zeroFieldL w = 0#4 <;>
      simp [hld, hzero, eq_comm]

/-- A format Z command has one word: its opcode byte above 24 zeros (R111). -/
theorem decode_eq_ok_iff_word {w : Word} {i : Instr} (hi : i.opcode ≠ 0x20#8) :
    decode w = .ok i ↔ w = i.opcode ++ 0#24 := by
  have hld : ∀ space index, i ≠ .ld space index := by
    rintro space index rfl
    exact hi rfl
  rw [decode_eq_ok_iff, formatZ?_eq_some_iff]
  constructor
  · rintro (⟨⟨hop, -⟩, hzero⟩ | ⟨-, -, h⟩)
    · rw [hop, ← hzero, formatZ_fields]
    · exact absurd h (hld _ _)
  · rintro rfl
    rw [opField_appendZ, zeroFieldZ_appendZ]
    exact .inl ⟨⟨rfl, hi⟩, rfl⟩

theorem decode_eq_ld_iff {w : Word} :
    (∃ space index, decode w = .ok (.ld space index)) ↔
      opField w = 0x20#8 ∧ zeroFieldL w = 0#4 := by
  constructor
  · rintro ⟨space, index, h⟩
    rcases decode_eq_ok_iff.1 h with ⟨hz, -⟩ | ⟨hop, hzero, -⟩
    · obtain ⟨hop, hld⟩ := formatZ?_eq_some_iff.1 hz
      exact absurd hop.symm hld
    · exact ⟨hop, hzero⟩
  · rintro ⟨hop, hzero⟩
    exact ⟨_, _, decode_eq_ok_iff.2 (.inr ⟨hop, hzero, rfl⟩)⟩

/-! ### Match and mask -/

/-- A row of format Z matches its one word: the mask takes every bit, and the shift puts the opcode byte
above 24 zeros. -/
theorem decode_eq_ok_iff_match {w : Word} {i : Instr} {m : Word} (hi : i.opcode ≠ 0x20#8)
    (hm : i.opcode ++ 0#24 = m) : decode w = .ok i ↔ w &&& 0xFFFFFFFF#32 = m := by
  rw [decode_eq_ok_iff_word hi, ← hm, show 0xFFFFFFFF#32 = BitVec.allOnes 32 from rfl,
    BitVec.and_allOnes]

/-- LD's mask takes the fields `op` and `zero` of format L. -/
theorem formatL_and_mask (o : BitVec 8) (a c : BitVec 4) (b : BitVec 16) :
    (o ++ a ++ c ++ b) &&& (BitVec.allOnes 8 ++ 0#4 ++ BitVec.allOnes 4 ++ 0#16) =
      o ++ 0#4 ++ c ++ 0#16 := by
  simp only [BitVec.and_append, BitVec.and_allOnes, BitVec.and_zero]

theorem and_maskL (w : Word) :
    w &&& 0xFF0F0000#32 = opField w ++ 0#4 ++ zeroFieldL w ++ 0#16 := by
  have h := formatL_and_mask (opField w) (spaceField w) (zeroFieldL w) (indexField w)
  rw [formatL_fields] at h
  exact h

/-- The fields that LD's mask takes are those its row fixes. -/
theorem and_maskL_eq_iff {w : Word} :
    w &&& 0xFF0F0000#32 = 0x20000000#32 ↔ opField w = 0x20#8 ∧ zeroFieldL w = 0#4 := by
  rw [and_maskL]
  constructor
  · intro h
    have hop := congrArg opField h
    have hzero := congrArg zeroFieldL h
    rw [opField_append] at hop
    rw [zeroFieldL_append] at hzero
    exact ⟨hop, hzero⟩
  · rintro ⟨hop, hzero⟩
    rw [hop, hzero]
    rfl

/-- Settles O4: a format Z row by its one word, LD's row by the two fields its mask takes. -/
theorem matchAndMask : Obligations.MatchAndMask := by
  unfold Obligations.MatchAndMask
  intro w
  exact ⟨decode_eq_ok_iff_match (by decide) rfl, decode_eq_ok_iff_match (by decide) rfl,
    decode_eq_ok_iff_match (by decide) rfl, decode_eq_ok_iff_match (by decide) rfl,
    decode_eq_ok_iff_match (by decide) rfl, decode_eq_ok_iff_match (by decide) rfl,
    decode_eq_ok_iff_match (by decide) rfl, decode_eq_ok_iff_match (by decide) rfl,
    decode_eq_ok_iff_match (by decide) rfl, decode_eq_ok_iff_match (by decide) rfl,
    decode_eq_ok_iff_match (by decide) rfl, decode_eq_ld_iff.trans and_maskL_eq_iff.symm⟩

end Sys2Proof

namespace Sys2Proof.Machine

/-! ### A word that decodes to no command -/

theorem takeWord_of_decode {w : Word} {i : Instr} (h : decode w = .ok i) (s : State) :
    takeWord w s = exec i s := by
  simp [takeWord, h]

theorem takeWord_of_illegal {w : Word} (h : ∀ i, decode w ≠ .ok i) (s : State) :
    takeWord w s = execIllegal w s := by
  unfold takeWord
  cases hd : decode w with
  | ok i => exact absurd hd (h i)
  | error e => rfl

/-- ILLCMD with the opcode byte and no stage, and nothing else changes (R302, R310). -/
theorem execIllegal_idle {s : State} (hs : s.idleReady) (w : Word) :
    execIllegal w s = .next (takeFault .illcmd (opField w) noStage s) := by
  obtain ⟨hm, hw⟩ := hs
  rw [execIllegal, accept_idle hm hw]

theorem execIllegal_halted {s : State} (hm : s.mode = .halted) (w : Word) :
    execIllegal w s = .next (s.respond .refused s.fault.word) := by
  rw [execIllegal, accept_halted hm, refuseCommand]

/-- A reserved byte is neither LD's nor of format Z (R115). -/
theorem decode_ne_ok_of_reserved {w : Word} (hop : opField w ∉ formatZBytes)
    (hld : opField w ≠ 0x20#8) (i : Instr) : decode w ≠ .ok i := by
  intro h
  rcases decode_eq_ok_iff.1 h with ⟨hz, -⟩ | ⟨hop', -⟩
  · simp [formatZ?_of_not_mem hop] at hz
  · exact hld hop'

/-- LD's `zero` field must be 0 (R116). -/
theorem decode_ne_ok_of_zeroFieldL {w : Word} (hop : opField w = 0x20#8)
    (hzero : zeroFieldL w ≠ 0#4) (i : Instr) : decode w ≠ .ok i := by
  intro h
  rcases decode_eq_ok_iff.1 h with ⟨hz, -⟩ | ⟨-, hzero', -⟩
  · exact (formatZ?_eq_some_iff.1 hz).2 hop
  · exact hzero hzero'

/-- The `zero` field of format Z must be 0 (R116). -/
theorem decode_ne_ok_of_zeroFieldZ {w : Word} (hop : opField w ∈ formatZBytes)
    (hzero : zeroFieldZ w ≠ 0#24) (i : Instr) : decode w ≠ .ok i := by
  intro h
  rcases decode_eq_ok_iff.1 h with ⟨-, hzero'⟩ | ⟨hop', -⟩
  · exact hzero hzero'
  · rw [hop'] at hop
    exact absurd hop (by decide)

/-- Settles O5: no clause's word decodes, and in MODE IDLE such a word is the fault ILLCMD. -/
theorem illegalWordFaults : Obligations.IllegalWordFaults := by
  unfold Obligations.IllegalWordFaults
  intro s w hs hw
  have hillegal : ∀ i, decode w ≠ .ok i := by
    rcases hw with hreserved | ⟨hop, hzero⟩ | ⟨hop, hzero⟩
    · refine decode_ne_ok_of_reserved (fun hop => hreserved ?_) (fun hop => hreserved ?_)
      · exact List.mem_append_left [0x20#8] hop
      · exact List.mem_append_right formatZBytes (List.mem_singleton.2 hop)
    · exact decode_ne_ok_of_zeroFieldL hop hzero
    · exact decode_ne_ok_of_zeroFieldZ hop hzero
  rw [takeWord_of_illegal hillegal, execIllegal_idle hs]
  rfl

/-! ### A halted block -/

/-- Each command's frame refuses in MODE HALTED; only NOP and LD answer there themselves (R122). -/
theorem exec_halted {s : State} {i : Instr} (hm : s.mode = .halted) (hnop : i ≠ .nop)
    (hld : ∀ space index, i ≠ .ld space index) :
    exec i s = .next (s.respond .refused s.fault.word) := by
  cases i with
  | nop => exact absurd rfl hnop
  | ld space index => exact absurd rfl (hld space index)
  | frame => rw [exec_frame, accept_halted hm, refuseCommand]
  | run => rw [exec_run, accept_halted hm, refuseCommand]
  | _ => exact runCommand_halted hm

theorem exec_nop_halted {s : State} (hm : s.mode = .halted) :
    exec .nop s = .next (s.respond .ok 0#32) := by
  rw [exec_nop, accept_halted hm]

/-- LD answers its element, or is refused (R296). -/
theorem exec_ld_halted_cases {s : State} (hm : s.mode = .halted) (space index : Nat) :
    (∃ v, exec (.ld space index) s = .next (s.respond .ok v)) ∨
      exec (.ld space index) s = .next (s.respond .refused s.fault.word) := by
  rw [exec_ld_halted hm]
  cases loadElement s space index with
  | ok v => exact .inl ⟨v, rfl⟩
  | error c => exact .inr rfl

/-- Every word but NOP and LD, legal or illegal, is refused in MODE HALTED (R122). -/
theorem takeWord_halted_refused {s : State} {w : Word} (hm : s.mode = .halted)
    (hnop : decode w ≠ .ok .nop) (hld : ∀ space index, decode w ≠ .ok (.ld space index)) :
    takeWord w s = .next (s.respond .refused s.fault.word) := by
  by_cases hlegal : ∃ i, decode w = .ok i
  · obtain ⟨i, hi⟩ := hlegal
    rw [takeWord_of_decode hi]
    exact exec_halted hm (fun h => hnop (h ▸ hi)) (fun space index h => hld space index (h ▸ hi))
  · rw [takeWord_of_illegal (not_exists.1 hlegal), execIllegal_halted hm]

/-- Every word is answered in MODE HALTED, with OK or REFUSED, and nothing else changes (R122). -/
theorem takeWord_halted_answers {s : State} (hm : s.mode = .halted) (w : Word) :
    (∃ v, takeWord w s = .next (s.respond .ok v)) ∨
      takeWord w s = .next (s.respond .refused s.fault.word) := by
  by_cases hnop : decode w = .ok .nop
  · exact .inl ⟨0#32, by rw [takeWord_of_decode hnop, exec_nop_halted hm]⟩
  by_cases hld : ∃ space index, decode w = .ok (.ld space index)
  · obtain ⟨space, index, h⟩ := hld
    rw [takeWord_of_decode h]
    exact exec_ld_halted_cases hm space index
  · exact .inr (takeWord_halted_refused hm hnop
      (fun space index h => hld ⟨space, index, h⟩))

/-- Settles O11: every answer is OK or REFUSED, NOP's is OK, and the frames of the other commands and of
an illegal word refuse. -/
theorem haltedAnswersEveryWord : Obligations.HaltedAnswersEveryWord := by
  unfold Obligations.HaltedAnswersEveryWord
  intro s w hm
  refine ⟨?_, fun hnop => ?_, fun hnop hld => takeWord_halted_refused hm hnop hld⟩
  · rcases takeWord_halted_answers hm w with ⟨v, h⟩ | h
    · exact ⟨.ok, v, by decide, h⟩
    · exact ⟨.refused, s.fault.word, by decide, h⟩
  · rw [takeWord_of_decode hnop, exec_nop_halted hm]
    rfl

end Sys2Proof.Machine
end

section
/-! SUPPORT. NOP in MODE IDLE (40_sequencer.md R141), beside its answer in MODE HALTED
(`exec_nop_halted`); the statement about NOP. -/

namespace Sys2Proof.Machine

theorem exec_nop_idle {s : State} (hs : s.idleReady) :
    exec .nop s = .next (s.respond .ok 0#32) := by
  obtain ⟨hm, hw⟩ := hs
  rw [exec_nop, accept_idle hm hw]

/-- Settles O10: the zero word is NOP's opcode above a zero field, and NOP's frame answers alike in
both modes. -/
theorem nopAnswersOk : Obligations.NopAnswersOk := by
  unfold Obligations.NopAnswersOk
  refine ⟨(decode_eq_ok_iff_word (by decide)).2 rfl, fun s hs => ?_⟩
  rcases hs with hidle | hhalted
  · exact exec_nop_idle hidle
  · exact exec_nop_halted hhalted

end Sys2Proof.Machine
end

section
/-! SUPPORT. CAPTURE with an engine that answers (41_capture.md): what the draw and the handshakes leave
of the outside world, the full next state of the command, then the statement. -/

namespace Sys2Proof.Machine

/-- A collaborator that answers every handshake asked of it has as many fewer left (R97). -/
theorem serve_snd_of_answers {left : Option Nat} {want : Nat} (h : answers left want) :
    (serve left want).2 = left.map (fun k => k - want) := by
  cases left with
  | none => rfl
  | some k => simp [serve, Nat.min_eq_left (h k rfl)]

/-- A draw takes from the tape as many values as it asks for, while there are some. -/
theorem drawMany_rest {α : Type} (tape : List α) (free : Nat → α) (drawn count : Nat) :
    (drawMany tape free drawn count).2.1 = tape.drop count := rfl

/-- The bytes the engine delivers after a start request: N draws (R163). -/
def State.delivered (s : State) : List Byte :=
  (drawMany s.env.samples Config.freeSample s.env.drawn s.cfg.n).1

@[simp] theorem State.delivered_length (s : State) : s.delivered.length = s.cfg.n :=
  drawMany_length _ _ _ _

/-- The samples the tape fixes are delivered at their own index. -/
theorem State.delivered_getElem?_of_tape {s : State} {k : Nat} {v : Byte} (hk : k < s.cfg.n)
    (hv : s.env.samples[k]? = some v) : s.delivered[k]? = some v := by
  obtain ⟨hlen, -⟩ := List.getElem?_eq_some_iff.1 hv
  rw [State.delivered, drawMany_getElem?_tape _ _ _ _ _ hlen hk, hv]

/-- The state CAPTURE leaves, before its response: SB full, everything downstream of it without a value,
the drain before the start and the samples after it (R161, R163, R165). -/
def State.captured (s : State) : State :=
  { s with
    sb := memOfList s.delivered
    sbCnt := s.cfg.n
    cs := []
    inCnt := 0
    binRe := []
    binIm := []
    binCnt := 0
    colH := []
    colBin := []
    colValid := false
    history := s.history ++ ([.capDrain, .capStart s.cfg.n] ++ sampleEvents 0 s.delivered)
    env := { s.env with
      capLeft := s.env.capLeft.map (fun k => k - (1 + s.cfg.n))
      samples := s.env.samples.drop s.cfg.n
      drawn := (drawMany s.env.samples Config.freeSample s.env.drawn s.cfg.n).2.2 } }

/-- CAPTURE's rule completes with SB full when the engine answers the drain and N beats. -/
theorem captureStage_eq_captured {s : State} (h : answers s.env.capLeft (1 + s.cfg.n)) :
    captureStage s = .done s.captured := by
  rw [captureStage_done h, serve_snd_of_answers h, drawMany_rest]
  rfl

theorem exec_capture_idle {s : State} (hs : s.idleReady)
    (h : answers s.env.capLeft (1 + s.cfg.n)) :
    exec .capture s = .next (s.captured.respond .ok 0#32) := by
  obtain ⟨hm, hw⟩ := hs
  rw [exec_capture, runCommand_done hm hw (captureStage_eq_captured h)]

/-- The response follows the drain, the start and the samples in the history (R95). -/
theorem captured_respond_history (s : State) (a : Status) (d : Word) :
    (s.captured.respond a d).history = s.history ++
      ([.capDrain, .capStart s.cfg.n] ++ sampleEvents 0 s.delivered ++ [.respond a d]) :=
  List.append_assoc _ _ _

/-- Settles O13: the bytes are the N draws, and the next state is `State.captured` with its response. -/
theorem captureFillsBuffer : Obligations.CaptureFillsBuffer := by
  unfold Obligations.CaptureFillsBuffer
  intro s hs ha
  refine ⟨s.captured.respond .ok 0#32, s.delivered, exec_capture_idle hs ha, s.delivered_length,
    fun k v => State.delivered_getElem?_of_tape, memRead_memOfList s.delivered, ?_⟩
  rw [← captured_respond_history]
  rfl

end Sys2Proof.Machine
end

section
/-! SUPPORT. The arithmetic of RMDC (42_dc_removal.md): the accumulator as a sum of samples, the mean
divider, the subtractor; then the full next state of the command, and the two statements. -/

namespace Sys2Proof.Machine

/-! ### Accumulator, mean divider, subtractor -/

/-- The accumulator adds the samples as unsigned numbers (R172). -/
theorem sampleSum_eq_sum (xs : List Byte) : sampleSum xs = (xs.map BitVec.toNat).sum := by
  rw [sampleSum, List.sum_eq_foldl, List.foldl_map]

/-- No sample is above 255, so the sum is at most 255 per sample (R173). -/
theorem sampleSum_le (xs : List Byte) : sampleSum xs ≤ 255 * xs.length := by
  have hbyte : ∀ v ∈ xs.map BitVec.toNat, v ≤ 255 := by
    intro v hv
    obtain ⟨x, -, rfl⟩ := List.mem_map.1 hv
    exact Nat.le_of_lt_succ x.isLt
  have hsum := List.sum_le_card_nsmul _ _ hbyte
  rwa [List.length_map, smul_eq_mul, mul_comm, ← sampleSum_eq_sum] at hsum

/-- FRAC is LOGN, so the dividend is a multiple of N (R6, R174). -/
theorem shifted_mod_n (c : Config) (sum : Nat) : (sum * 2 ^ c.frac) % c.n = 0 :=
  Nat.mul_mod_left _ _

/-- MEAN_FX is SUM: the shift and the division cancel (R174). -/
@[simp] theorem meanOf_eq (c : Config) (sum : Nat) : meanOf c sum = sum :=
  Nat.mul_div_cancel _ (Nat.two_pow_pos _)

/-- An element of CS is N times its sample, less the mean (R175). -/
theorem centre_eq (c : Config) (mean : Nat) (x : Byte) :
    centre c mean x = (c.n : Int) * (x.toNat : Int) - (mean : Int) := by
  rw [mul_comm, ← Nat.cast_mul]
  rfl

/-- The largest sum of N samples fits `8 + LOGN` bits, the width of SUM and of MEAN_FX (R173, R174). -/
theorem largest_sum_lt (c : Config) : 255 * c.n < 2 ^ (8 + c.logN) := by
  rw [pow_add]
  exact Nat.mul_lt_mul_of_pos_right (by decide) (Nat.two_pow_pos _)

/-- Settles O15: every clause is the bound of 255 per sample, or that FRAC is LOGN and N its power
of two. -/
theorem accumulatorAndDividerExact : Obligations.AccumulatorAndDividerExact := by
  unfold Obligations.AccumulatorAndDividerExact
  intro c xs hlen
  have hsum : sampleSum xs ≤ 255 * c.n := hlen ▸ sampleSum_le xs
  have hwidth := largest_sum_lt c
  rw [meanOf_eq]
  refine ⟨hsum, hwidth, shifted_mod_n c _, rfl, hsum.trans_lt hwidth, hsum, fun hlog => ?_⟩
  have hn : c.n = 4096 := by simp [Config.n, hlog]
  exact ⟨by omega, by rw [Config.sumW, hlog]⟩

/-! ### The next state of RMDC -/

/-- The state RMDC leaves on the samples `xs`, before its response: SUM and MEAN_FX their sum, CS full,
the bins and the columns without a value (R171, R175). -/
def State.centred (s : State) (xs : List Byte) : State :=
  { s with
    sum := sampleSum xs
    meanFx := sampleSum xs
    cs := memOfList (xs.map (centre s.cfg (sampleSum xs)))
    inCnt := s.cfg.n
    binRe := []
    binIm := []
    binCnt := 0
    colH := []
    colBin := []
    colValid := false }

theorem State.centred_cs_read (s : State) (xs : List Byte) (k : Nat) :
    memRead (s.centred xs).cs k =
      xs[k]?.map (fun x => (s.cfg.n : Int) * (x.toNat : Int) - (sampleSum xs : Int)) := by
  rw [State.centred, memRead_memOfList, List.getElem?_map, funext (centre_eq s.cfg (sampleSum xs))]

/-- RMDC's rule completes on a valid SB that is read whole. -/
theorem rmdcStage_eq_centred {s : State} {xs : List Byte} (hv : s.sbCnt = s.cfg.n)
    (hr : memReadRange s.sb s.cfg.n = some xs) : rmdcStage s = .done (s.centred xs) := by
  have hvalid : s.sbValid = true := decide_eq_true hv
  rw [rmdcStage, if_pos hvalid, hr]
  simp only [meanOf_eq]
  rfl

theorem exec_rmdc_idle {s : State} {xs : List Byte} (hs : s.idleReady) (hv : s.sbCnt = s.cfg.n)
    (hr : memReadRange s.sb s.cfg.n = some xs) :
    exec .rmdc s = .next ((s.centred xs).respond .ok 0#32) := by
  obtain ⟨hm, hw⟩ := hs
  rw [exec_rmdc, runCommand_done hm hw (rmdcStage_eq_centred hv hr)]

/-- Settles O14: the samples are what RMDC reads of SB, and the next state is `State.centred` with its
response. -/
theorem rmdcCentresSamples : Obligations.RmdcCentresSamples := by
  unfold Obligations.RmdcCentresSamples
  intro s xs hs hv hlen hread
  have hr : memReadRange s.sb s.cfg.n = some xs := memReadRange_eq_some.2 ⟨hlen, hread⟩
  rw [← sampleSum_eq_sum]
  exact ⟨(s.centred xs).respond .ok 0#32, exec_rmdc_idle hs hv hr, s.centred_cs_read xs, rfl⟩

end Sys2Proof.Machine
end

section
/-! SUPPORT. The transform wrapper (43_fft_wrapper.md): what the engine answers, the rules of XFINIT,
XFEXEC and XFREL on each of their paths, then the four statements. -/

namespace Sys2Proof.Machine

/-! ### What the engine answers -/

/-- An engine that answers every handshake asked of it answers them all, and has as many fewer left
(R97). -/
theorem serve_of_answers {left : Option Nat} {want : Nat} (h : answers left want) :
    serve left want = (want, left.map (fun k => k - want)) :=
  Prod.ext (serve_eq_of_answers h) (serve_snd_of_answers h)

/-- One draw takes the first value off the tape, if it lists one. -/
theorem drawOne_rest {α : Type} (tape : List α) (free : Nat → α) (drawn : Nat) :
    (drawOne tape free drawn).2.1 = tape.tail := by
  cases tape <;> rfl

theorem one_le_bw_of_valid {c : Config} (hc : c.Valid) : 1 ≤ c.bw := by
  obtain ⟨-, -, ⟨hbw, -⟩, -⟩ := hc
  omega

/-- 0 is a signed number of every width. -/
theorem signedIn_zero (w : Nat) : signedIn w 0 := by
  have hpos : (0 : Int) < 2 ^ (w - 1) := by positivity
  exact ⟨by omega, hpos⟩

/-- The parts of a bin are BW-bit numbers, whatever the engine computes (R89, R198). -/
theorem transformBin_signedIn {c : Config} (hbw : 1 ≤ c.bw) (v : List Int) (k : Nat) :
    signedIn c.bw (transformBin c v k).1 ∧ signedIn c.bw (transformBin c v k).2 := by
  unfold transformBin
  split
  · exact ⟨signedIn_zero _, signedIn_zero _⟩
  · exact ⟨signedBits_range _ hbw _, signedBits_range _ hbw _⟩

theorem mem_transform_signedIn {c : Config} (hbw : 1 ≤ c.bw) {v : List Int} {b : Int × Int}
    (hb : b ∈ transform c v) : signedIn c.bw b.1 ∧ signedIn c.bw b.2 := by
  obtain ⟨k, -, rfl⟩ := List.mem_map.1 hb
  exact transformBin_signedIn hbw v k

/-- Pair `k` is the bin of index `k` (R191 a, b). -/
theorem transform_getElem? {c : Config} (v : List Int) {k : Nat} (hk : k < c.nb) :
    (transform c v)[k]? = some (transformBin c v k) := by
  rw [transform, List.getElem?_map, List.getElem?_range hk, Option.map_some]

/-- The all-zero input gives zero bins (R191 c). -/
theorem transformBin_of_zero (c : Config) {v : List Int} (hv : ∀ x ∈ v, x = 0) (k : Nat) :
    transformBin c v k = (0, 0) :=
  if_pos (List.all_eq_true.2 fun x hx => decide_eq_true (hv x hx))

/-! ### XFREL -/

theorem xfrelRule_noinit {s : State} (hr : s.xfReady = false) :
    xfrelRule s = .raised .noinit s := by
  simp [xfrelRule, hr]

/-- The state XFREL leaves, before its response: the release sent under the handle, and no handle any
more (R200). -/
def State.released (s : State) : State :=
  { s with
    xfReady := false
    xfHandle := 0#32
    history := s.history ++ [.xfRelease s.xfHandle]
    env := { s.env with xfLeft := s.env.xfLeft.map (fun k => k - 1) } }

theorem xfrelRule_eq_released {s : State} (hr : s.xfReady = true) (ha : answers s.env.xfLeft 1) :
    xfrelRule s = .done s.released := by
  simp [xfrelRule, hr, serve_of_answers ha, State.released, State.record]

/-- Settles O33: with a handle and an engine that acknowledges, the next state is `State.released` with
its response; without a handle the rule raises at once. -/
theorem xfrelReleases : Obligations.XfrelReleases := by
  unfold Obligations.XfrelReleases
  rintro s ⟨hm, hw⟩
  refine ⟨fun hr ha => ?_, fun hr => ?_⟩
  · rw [exec_xfrel, runCommand_done hm hw (xfrelRule_eq_released hr ha), List.append_cons]
    rfl
  · rw [exec_xfrel, runCommand_raised hm hw (xfrelRule_noinit hr)]
    rfl

/-! ### XFINIT -/

theorem xfinitRule_reinit {s : State} (hr : s.xfReady = true) :
    xfinitRule s = .raised .reinit s := by
  simp [xfinitRule, hr]

/-- The engine's answer to the next init request, the rest of the tape and the next number: one draw
(R88). -/
def State.initDraw (s : State) : (Bool × BitVec 32) × List (Bool × BitVec 32) × Nat :=
  drawOne s.env.inits Config.freeInit s.env.drawn

/-- The `ok` of that answer. -/
def State.initOk (s : State) : Bool := s.initDraw.1.1

/-- The handle of that answer, as the HANDLE_W-bit port carries it. -/
def State.initHandle (s : State) : BitVec 32 :=
  BitVec.ofNat 32 (s.initDraw.1.2.toNat % 2 ^ s.cfg.handleW)

theorem State.initHandle_lt (s : State) : s.initHandle.toNat < 2 ^ s.cfg.handleW := by
  rw [State.initHandle, BitVec.toNat_ofNat]
  exact (Nat.mod_le _ _).trans_lt (Nat.mod_lt _ (Nat.two_pow_pos _))

/-- The answer's `ok` is the tape's. -/
theorem State.initOk_of_tape {s : State} {ok : Bool} {h : BitVec 32} {r : List (Bool × BitVec 32)}
    (ht : s.env.inits = (ok, h) :: r) : s.initOk = ok := by
  rw [State.initOk, State.initDraw, ht, drawOne_cons]

/-- A handle the port can hold arrives unchanged from the tape. -/
theorem State.initHandle_of_tape {s : State} {ok : Bool} {h : BitVec 32}
    {r : List (Bool × BitVec 32)} (ht : s.env.inits = (ok, h) :: r)
    (hh : h.toNat < 2 ^ s.cfg.handleW) : s.initHandle = h := by
  rw [State.initHandle, State.initDraw, ht, drawOne_cons, Nat.mod_eq_of_lt hh,
    BitVec.ofNat_toNat, BitVec.setWidth_eq]

/-- The state after the engine has answered the init request, its answer recorded and not yet acted
on. -/
def State.initAnswered (s : State) : State :=
  { s with
    history := s.history ++ [.xfInit s.cfg.n s.initOk s.initHandle]
    env := { s.env with
      xfLeft := s.env.xfLeft.map (fun k => k - 1)
      inits := s.env.inits.tail
      drawn := s.initDraw.2.2 } }

/-- XFINIT's rule with an engine that answers: it turns on the answer's `ok` alone (R186, R189). -/
theorem xfinitRule_answered {s : State} (hr : s.xfReady = false) (ha : answers s.env.xfLeft 1) :
    xfinitRule s = if s.initOk
      then .done { s.initAnswered with xfHandle := s.initHandle, xfReady := true }
      else .raised .xfalloc s.initAnswered := by
  have hdraw : (drawOne s.env.inits Config.freeInit s.env.drawn).1.1 = s.initOk := rfl
  cases hok : s.initOk <;>
    simp [xfinitRule, hr, serve_of_answers ha, hdraw, hok, drawOne_rest, State.initAnswered,
      State.initHandle, State.initDraw, State.record]

theorem exec_xfinit_ok {s : State} (hs : s.idleReady) (hr : s.xfReady = false)
    (ha : answers s.env.xfLeft 1) (hok : s.initOk = true) :
    exec .xfinit s = .next (State.respond
      { s.initAnswered with xfHandle := s.initHandle, xfReady := true } .ok 0#32) := by
  obtain ⟨hm, hw⟩ := hs
  rw [exec_xfinit, runCommand_done hm hw ((xfinitRule_answered hr ha).trans (if_pos hok))]

theorem exec_xfinit_xfalloc {s : State} (hs : s.idleReady) (hr : s.xfReady = false)
    (ha : answers s.env.xfLeft 1) (hok : s.initOk = false) :
    exec .xfinit s = .next (takeFault .xfalloc 0x10#8 noStage s.initAnswered) := by
  obtain ⟨hm, hw⟩ := hs
  have hrule := (xfinitRule_answered hr ha).trans (if_neg (by simp [hok]))
  rw [exec_xfinit, runCommand_raised hm hw hrule]
  rfl

/-- Settles O32: the answer is the draw `State.initDraw`, of the tape when it lists one; the next state
is `State.initAnswered` with the handle taken, or with the fault. -/
theorem xfinitInitialises : Obligations.XfinitInitialises := by
  unfold Obligations.XfinitInitialises
  intro s hs answered
  have hanswered (hr : s.xfReady = false) (ha : answers s.env.xfLeft 1) :
      ∃ t, answered s.initOk s.initHandle t := by
    cases hok : s.initOk with
    | true =>
      refine ⟨_, exec_xfinit_ok hs hr ha hok, fun _ => ?_, nofun⟩
      rw [List.append_cons, ← hok]
      rfl
    | false =>
      refine ⟨_, exec_xfinit_xfalloc hs hr ha hok, nofun, fun _ => ?_⟩
      rw [List.append_cons, ← hok]
      rfl
  refine ⟨fun hr ha => ⟨fun ok h r ht hh => ?_, fun _ => ?_⟩, fun hr => ?_⟩
  · rw [← State.initOk_of_tape ht, ← State.initHandle_of_tape ht hh]
    exact hanswered hr ha
  · obtain ⟨t, ht⟩ := hanswered hr ha
    exact ⟨s.initOk, s.initHandle, t, s.initHandle_lt, ht⟩
  · obtain ⟨hm, hw⟩ := hs
    rw [exec_xfinit, runCommand_raised hm hw (xfinitRule_reinit hr)]
    rfl

/-! ### XFEXEC -/

theorem xfexecStage_noinit {s : State} (hr : s.xfReady = false) :
    xfexecStage s = .raised .noinit s := by
  simp [xfexecStage, hr]

theorem xfexecStage_len {s : State} (hr : s.xfReady = true) (hn : s.inCnt ≠ s.cfg.n) :
    xfexecStage s = .raised .len s := by
  simp [xfexecStage, hr, State.csValid, hn]

/-- Settles O35: XFEXEC's rule tests the handle first and the length second, and raises on the state it
was given. -/
theorem xfexecChecksHandleThenLength : Obligations.XfexecChecksHandleThenLength := by
  unfold Obligations.XfexecChecksHandleThenLength
  rintro s ⟨hm, hw⟩
  refine ⟨fun hr => ?_, fun hr hn => ?_⟩
  · rw [exec_xfexec, runCommand_raised hm hw (xfexecStage_noinit hr)]
    rfl
  · rw [exec_xfexec, runCommand_raised hm hw (xfexecStage_len hr hn)]
    rfl

/-- The state XFEXEC leaves on the input `v`, before its response: the NB pairs of XF in the bins, the
columns without a value, one request under the handle (R193, R197). -/
def State.transformed (s : State) (v : List Int) : State :=
  { s with
    binRe := memOfList ((transform s.cfg v).map Prod.fst)
    binIm := memOfList ((transform s.cfg v).map Prod.snd)
    binCnt := s.cfg.nb
    colH := []
    colBin := []
    colValid := false
    history := s.history ++ [.xfExec s.xfHandle v (transform s.cfg v)]
    env := { s.env with
      xfLeft := s.env.xfLeft.map (fun k => k - (s.cfg.n + s.cfg.nb)) } }

theorem State.transformed_binRe_read (s : State) (v : List Int) (k : Nat) :
    memRead (s.transformed v).binRe k = (transform s.cfg v)[k]?.map Prod.fst := by
  rw [State.transformed, memRead_memOfList, List.getElem?_map]

theorem State.transformed_binIm_read (s : State) (v : List Int) (k : Nat) :
    memRead (s.transformed v).binIm k = (transform s.cfg v)[k]?.map Prod.snd := by
  rw [State.transformed, memRead_memOfList, List.getElem?_map]

/-- An all-zero input leaves 0 in both parts of every bin (R191 c). -/
theorem State.transformed_read_of_zero (s : State) {v : List Int} (hv : ∀ x ∈ v, x = 0) {k : Nat}
    (hk : k < s.cfg.nb) :
    memRead (s.transformed v).binRe k = some 0 ∧ memRead (s.transformed v).binIm k = some 0 := by
  rw [State.transformed_binRe_read, State.transformed_binIm_read, transform_getElem? v hk,
    transformBin_of_zero s.cfg hv]
  exact ⟨rfl, rfl⟩

theorem exec_xfexec_idle {s : State} {v : List Int} (hs : s.idleReady) (hr : s.xfReady = true)
    (hn : s.inCnt = s.cfg.n) (hread : memReadRange s.cs s.cfg.n = some v)
    (ha : answers s.env.xfLeft (s.cfg.n + s.cfg.nb)) :
    exec .xfexec s = .next ((s.transformed v).respond .ok 0#32) := by
  obtain ⟨hm, hw⟩ := hs
  rw [exec_xfexec, runCommand_done hm hw (xfexecStage_done hr hn hread ha),
    serve_snd_of_answers ha]
  rfl

/-- Settles O17: the input is what XFEXEC reads of CS, and the next state is `State.transformed` with
its response. -/
theorem xfexecStoresBins : Obligations.XfexecStoresBins := by
  unfold Obligations.XfexecStoresBins
  intro s v hs hvalid hr hn hlen hread ha
  have hrange : memReadRange s.cs s.cfg.n = some v := memReadRange_eq_some.2 ⟨hlen, hread⟩
  refine ⟨(s.transformed v).respond .ok 0#32, exec_xfexec_idle hs hr hn hrange ha,
    transform_length s.cfg v, s.transformed_binRe_read v, s.transformed_binIm_read v,
    fun b => mem_transform_signedIn (one_le_bw_of_valid hvalid),
    fun hzero k => s.transformed_read_of_zero hzero, ?_⟩
  rw [List.append_cons]
  rfl

end Sys2Proof.Machine
end

section
/-! SUPPORT. The magnitude unit (44_magnitude_scale.md): how wide a square, an energy and a sum of two
energies are, what the divisor, the scale and the height of a column are, then the two statements. -/

namespace Sys2Proof.Machine

/-! ### Energies -/

/-- A signed number of `w` bits is at most `2^(w-1)` away from 0, which the most negative one is. -/
theorem natAbs_le_of_signedIn {w : Nat} {v : Int} (h : signedIn w v) : v.natAbs ≤ 2 ^ (w - 1) := by
  obtain ⟨hlow, hhigh⟩ := h
  zify
  exact abs_le.2 ⟨hlow, hhigh.le⟩

theorem toNat_mul_self (v : Int) : (v * v).toNat = v.natAbs * v.natAbs := by
  rw [← Int.natAbs_mul_self, Int.toNat_natCast]

theorem toNat_mul_self_le_of_signedIn {w : Nat} {v : Int} (h : signedIn w v) :
    (v * v).toNat ≤ 2 ^ (2 * w - 2) :=
  calc (v * v).toNat = v.natAbs * v.natAbs := toNat_mul_self v
    _ ≤ 2 ^ (w - 1) * 2 ^ (w - 1) :=
      Nat.mul_le_mul (natAbs_le_of_signedIn h) (natAbs_le_of_signedIn h)
    _ = 2 ^ (2 * w - 2) := by rw [← pow_add, show w - 1 + (w - 1) = 2 * w - 2 by omega]

/-- Neither square of R211 is negative, so the energy is exact. -/
theorem energyOf_eq_add (re im : Int) : energyOf re im = (re * re).toNat + (im * im).toNat :=
  Int.toNat_add (mul_self_nonneg re) (mul_self_nonneg im)

theorem energyOf_le_of_signedIn {w : Nat} {re im : Int} (hw : 1 ≤ w) (hre : signedIn w re)
    (him : signedIn w im) : energyOf re im ≤ 2 ^ (2 * w - 1) :=
  calc energyOf re im = (re * re).toNat + (im * im).toNat := energyOf_eq_add re im
    _ ≤ 2 ^ (2 * w - 2) + 2 ^ (2 * w - 2) :=
      Nat.add_le_add (toNat_mul_self_le_of_signedIn hre) (toNat_mul_self_le_of_signedIn him)
    _ = 2 ^ (2 * w - 1) := Nat.two_pow_pred_add_two_pow_pred (w := 2 * w - 1) (by omega)

/-- A window of two bins (R231) can reach `2^(2*BW)` itself, which is why EW is `2*BW + 1`. -/
theorem energyOf_add_energyOf_le {w : Nat} {re im re' im' : Int} (hw : 1 ≤ w)
    (hre : signedIn w re) (him : signedIn w im) (hre' : signedIn w re') (him' : signedIn w im') :
    energyOf re im + energyOf re' im' ≤ 2 ^ (2 * w) :=
  calc energyOf re im + energyOf re' im' ≤ 2 ^ (2 * w - 1) + 2 ^ (2 * w - 1) :=
      Nat.add_le_add (energyOf_le_of_signedIn hw hre him) (energyOf_le_of_signedIn hw hre' him')
    _ = 2 ^ (2 * w) := Nat.two_pow_pred_add_two_pow_pred (by omega)

theorem scaleMul_lt_of_valid {c : Config} (hc : c.Valid) : c.scaleMul < 2 ^ 16 := by
  obtain ⟨-, -, -, -, -, -, -, -, -, -, -, ⟨-, hmul⟩, -⟩ := hc
  omega

/-- Settles O20: each width follows from the one before it, from the squares up. -/
theorem energyWidths : Obligations.EnergyWidths := by
  unfold Obligations.EnergyWidths
  intro c re im re' im' hc hre him hre' him'
  have hbw := one_le_bw_of_valid hc
  have henergy := energyOf_le_of_signedIn hbw hre him
  have hsum := energyOf_add_energyOf_le hbw hre him hre' him'
  have hew : energyOf re im + energyOf re' im' < 2 ^ c.ew :=
    hsum.trans_lt (Nat.pow_lt_pow_succ (by omega))
  refine ⟨toNat_mul_self_le_of_signedIn hre, henergy,
    henergy.trans_lt (Nat.pow_lt_pow_right (by omega) (by omega)), hsum, hew, ?_⟩
  rw [pow_add]
  exact Nat.mul_lt_mul'' hew (scaleMul_lt_of_valid hc)

/-! ### Divisor, scale and height -/

theorem divisor_pos (c : Config) (g : BitVec 16) : 0 < divisor c g := by
  unfold divisor
  split <;> omega

/-- The minimum of 1 makes a reading of 0 divide as a reading of 1 does (R213). -/
theorem divisor_zero (c : Config) : divisor c 0#16 = divisor c 1#16 := rfl

/-- The floor of the shift and the floor of the division are one floor (R214). -/
theorem scale_eq_div (c : Config) (g : BitVec 16) (e : Nat) :
    scale c g e = e * c.scaleMul / (2 ^ c.scaleShift * divisor c g) :=
  Nat.div_div_eq_div_mul _ _ _

theorem scale_eq_iff (c : Config) (g : BitVec 16) (e q : Nat) :
    scale c g e = q ↔
      q * (2 ^ c.scaleShift * divisor c g) ≤ e * c.scaleMul ∧
        e * c.scaleMul < (q + 1) * (2 ^ c.scaleShift * divisor c g) := by
  have hpos : 0 < 2 ^ c.scaleShift * divisor c g := Nat.mul_pos (by positivity) (divisor_pos c g)
  rw [scale_eq_div, Nat.div_eq_iff hpos, ← Nat.lt_iff_le_pred (by positivity), Nat.add_one_mul]

/-- No scale is negative, so only CLAMP's upper bound acts (R215, R216). -/
theorem height_eq_min (c : Config) (g : BitVec 16) (e : Nat) :
    height c g e = min (scale c g e) c.barH := by
  rw [height, clamp, Nat.max_zero]

theorem height_le_barH (c : Config) (g : BitVec 16) (e : Nat) : height c g e ≤ c.barH :=
  Nat.min_le_right _ _

theorem barH_lt_of_valid {c : Config} (hc : c.Valid) : c.barH < 2 ^ 5 := by
  obtain ⟨-, -, -, -, -, -, ⟨-, hbar⟩, -⟩ := hc
  omega

theorem height_congr_divisor {c : Config} {g g' : BitVec 16} (h : divisor c g = divisor c g')
    (e : Nat) : height c g e = height c g' e := by
  rw [height, height, scale, scale, h]

/-- Settles O21: the floor is `scale_eq_iff`, the clamp `height_eq_min`; BAR_H is at most 31. -/
theorem heightIsClampedFloor : Obligations.HeightIsClampedFloor := by
  unfold Obligations.HeightIsClampedFloor
  refine ⟨fun c g e q hc => ?_, by decide, by decide, by decide, by decide⟩
  have hbound := height_le_barH c g e
  exact ⟨scale_eq_iff c g e q, rfl, divisor_pos c g, height_eq_min c g e, hbound,
    toNat_ofNat_of_lt (hbound.trans_lt (barH_lt_of_valid hc)),
    height_congr_divisor (divisor_zero c) e⟩

end Sys2Proof.Machine
end

section
/-! SUPPORT. The bin-to-pixel aggregator (45_bin_to_pixel.md): the bin of a column, the value of a
label, the energy of a window, the gain sample, the full next state of MAP; then the two statements. -/

namespace Sys2Proof.Machine

/-! ### Bin indices -/

theorem n_pos (c : Config) : 0 < c.n := Nat.two_pow_pos _

/-- The bound of a listed level lies in `1 .. N/2` (00_scope.md section 4). -/
theorem zoomAt_bounds_of_valid {c : Config} (hc : c.Valid) {l : Nat} (hl : l < c.levels) :
    0 < c.zoomAt l ∧ c.zoomAt l ≤ c.n / 2 := by
  obtain ⟨-, -, -, -, -, -, -, -, hzoom, -⟩ := hc
  rw [Config.zoomAt, List.getD_eq_getElem _ _ hl]
  exact hzoom _ (List.getElem_mem hl)

/-- No column selects the bin `M` or one above it (R229). -/
theorem binIndex_lt {c : Config} {m x : Nat} (hm : 0 < m) (hx : x < c.wCols) :
    binIndex c m x < m :=
  Nat.div_lt_of_lt_mul (by rw [mul_comm]; exact Nat.mul_lt_mul_of_pos_right hx hm)

theorem columnBins_getElem? {c : Config} {x : Nat} (m : Nat) (hx : x < c.wCols) :
    (columnBins c m)[x]? = some (binIndex c m x) := by
  rw [columnBins, List.getElem?_map, List.getElem?_range hx, Option.map_some]

/-- Every label stands under a column (R234). -/
theorem labelColumn_lt {c : Config} (hc : c.Valid) {j : Nat} (hj : j < c.nlbl) :
    j * c.labelStep < c.wCols := by
  obtain ⟨-, -, -, -, -, -, -, -, -, -, -, -, -, ⟨hstep, -⟩, -⟩ := hc
  have hceil : (j + 1) * c.labelStep ≤ c.wCols + c.labelStep - 1 :=
    (Nat.le_div_iff_mul_le hstep).1 hj
  rw [Nat.add_one_mul] at hceil
  omega

/-! ### Label values -/

/-- Rounding half up is one floor of the doubled frequency (R233). -/
theorem khz_eq_iff (c : Config) (i q : Nat) :
    khz c i = q ↔
      2000 * c.n * q ≤ 2 * (c.fs * i) + 1000 * c.n ∧
        2 * (c.fs * i) + 1000 * c.n < 2000 * c.n * (q + 1) := by
  have hpos : 0 < 2000 * c.n := Nat.mul_pos (by decide) (n_pos c)
  rw [khz, freq, Nat.div_eq_iff hpos, ← Nat.lt_iff_le_pred (by positivity), ← Nat.add_one_mul,
    mul_comm q, mul_comm (q + 1)]

/-- The Nyquist bin of the fastest sample rate is at 524 kHz (R233). -/
theorem khz_le_of_valid {c : Config} (hc : c.Valid) {i : Nat} (hi : i ≤ c.n / 2) :
    khz c i ≤ 524 := by
  obtain ⟨-, ⟨-, hfs⟩, -⟩ := hc
  have hdouble : 2 * (c.fs * i) ≤ 1048575 * c.n :=
    calc 2 * (c.fs * i) = c.fs * (2 * i) := by ring
      _ ≤ 1048575 * c.n := Nat.mul_le_mul (by omega) (by omega)
  have hn := n_pos c
  rw [khz, freq, ← Nat.lt_succ_iff]
  exact Nat.div_lt_of_lt_mul (by omega)

/-- Settles O24: the rounding is `khz_eq_iff`, the bound `khz_le_of_valid`. -/
theorem labelRoundsToNearest : Obligations.LabelRoundsToNearest := by
  unfold Obligations.LabelRoundsToNearest
  exact ⟨fun c i q hc => ⟨khz_eq_iff c i q, khz_le_of_valid hc⟩,
    by decide, by decide, by decide, by decide, by decide⟩

/-- The value of label `j` is that of the bin of column `j * LABEL_STEP`, and fits its 16 bits. -/
theorem labelValues_getElem? {c : Config} (hc : c.Valid) {l j : Nat} (hl : l < c.levels)
    (hj : j < c.nlbl) : ∃ v : BitVec 16, (labelValues c (c.zoomAt l))[j]? = some v ∧
      v.toNat = khz c (binIndex c (c.zoomAt l) (j * c.labelStep)) := by
  obtain ⟨hpos, hle⟩ := zoomAt_bounds_of_valid hc hl
  have hbin := binIndex_lt hpos (labelColumn_lt hc hj)
  have hkhz := khz_le_of_valid hc (hbin.le.trans hle)
  refine ⟨_, ?_, toNat_ofNat_of_lt (hkhz.trans_lt (by decide))⟩
  rw [labelValues, List.getElem?_map, List.getElem?_range hj, Option.map_some]

/-! ### Window energies -/

/-- The energy of the window at bin `i` when bin `k` is `(re k, im k)` (R231). -/
def windowEnergyOf (c : Config) (re im : Nat → Int) (i : Nat) : Nat :=
  energyOf (re i) (im i) + if c.agg then energyOf (re (i + 1)) (im (i + 1)) else 0

/-- The energy of a window is the sum of all its squares, taken over the integers. -/
theorem windowEnergyOf_eq_toNat (c : Config) (re im : Nat → Int) (i : Nat) :
    windowEnergyOf c re im i = (re i * re i + im i * im i + (if c.agg then
      re (i + 1) * re (i + 1) + im (i + 1) * im (i + 1) else 0)).toNat := by
  have hnonneg (k : Nat) : 0 ≤ re k * re k + im k * im k :=
    add_nonneg (mul_self_nonneg _) (mul_self_nonneg _)
  unfold windowEnergyOf energyOf
  split
  · exact (Int.toNat_add (hnonneg i) (hnonneg (i + 1))).symm
  · rw [add_zero, add_zero]

section BinsRead

variable {c : Config} {binRe binIm : Mem Int} {re im : Nat → Int}
  (hread : ∀ k, k < c.nb → memRead binRe k = some (re k) ∧ memRead binIm k = some (im k))

include hread

theorem energyAt_of_read {k : Nat} (hk : k < c.nb) :
    energyAt binRe binIm k = some (energyOf (re k) (im k)) := by
  obtain ⟨hre, him⟩ := hread k hk
  rw [energyAt, hre, him]

theorem windowEnergy_of_read {i : Nat} (hi : i + 1 < c.nb) :
    windowEnergy c binRe binIm i = some (windowEnergyOf c re im i) := by
  rw [windowEnergy, windowEnergyOf, energyAt_of_read hread (by omega : i < c.nb),
    energyAt_of_read hread hi]
  split <;> rfl

/-- On a full bin buffer every column's energy can be computed: its window ends at bin N/2 (R230). -/
theorem columnEnergies_of_read {m : Nat} (hm : 0 < m) (hle : m ≤ c.n / 2) :
    columnEnergies c binRe binIm m = some ((columnBins c m).map (windowEnergyOf c re im)) := by
  rw [columnEnergies, collect_eq_some, List.map_map]
  refine List.map_congr_left fun i hi => windowEnergy_of_read hread ?_
  obtain ⟨x, hx, rfl⟩ := List.mem_map.1 hi
  have hbin := binIndex_lt hm (List.mem_range.1 hx)
  exact Nat.succ_lt_succ (hbin.trans_le hle)

end BinsRead

/-! ### The gain sample -/

/-- The next reading of the gain port and what is left of the tape and the numbering: one draw (R92). -/
def State.gainDraw (s : State) : BitVec 16 × List (BitVec 16) × Nat :=
  drawOne s.env.gains Config.freeGain s.env.drawn

/-- That reading, as the GAIN_W-bit port carries it. In fixed mode MAP does not take it (R227). -/
def State.gainReading (s : State) : BitVec 16 :=
  BitVec.ofNat 16 (s.gainDraw.1.toNat % 2 ^ s.cfg.gainW)

theorem State.gainReading_lt (s : State) : s.gainReading.toNat < 2 ^ s.cfg.gainW := by
  rw [State.gainReading, BitVec.toNat_ofNat]
  exact (Nat.mod_le _ _).trans_lt (Nat.mod_lt _ (Nat.two_pow_pos _))

/-- A reading the port can hold arrives unchanged from the tape. -/
theorem State.gainReading_of_tape {s : State} {v : BitVec 16} (ht : s.env.gains.head? = some v)
    (hv : v.toNat < 2 ^ s.cfg.gainW) : s.gainReading = v := by
  obtain ⟨rest, hgains⟩ := List.head?_eq_some_iff.1 ht
  rw [State.gainReading, State.gainDraw, hgains, drawOne_cons, Nat.mod_eq_of_lt hv,
    BitVec.ofNat_toNat, BitVec.setWidth_eq]

/-- The gain sample in both modes: in fixed mode it leaves the state as it is (R227). -/
theorem sampleGain_eq (s : State) : sampleGain s = { s with
    gainLatch := if s.cfg.gainLive then s.gainReading else s.gainLatch
    history := s.history ++ (if s.cfg.gainLive then [.gainSample s.gainReading] else [])
    env := if s.cfg.gainLive then
        { s.env with gains := s.env.gains.tail, drawn := s.gainDraw.2.2 }
      else s.env } := by
  cases hlive : s.cfg.gainLive with
  | false => simp [sampleGain, hlive]
  | true => simp [sampleGain, hlive, drawOne_rest, State.gainReading, State.gainDraw, State.record]

/-- A height depends on the reading in live mode alone: in fixed mode the divisor is 1 (R213). -/
theorem height_of_latched (c : Config) (reading latch : BitVec 16) (e : Nat) :
    height c (if c.gainLive then reading else latch) e = height c reading e := by
  refine height_congr_divisor ?_ e
  cases hlive : c.gainLive <;> simp [divisor, hlive]

/-- The height of a column in R214's and R216's formulas. -/
theorem height_eq_min_div (c : Config) (g : BitVec 16) (e : Nat) :
    height c g e = min (e * c.scaleMul /
      (2 ^ c.scaleShift * (if c.gainLive then max g.toNat 1 else 1))) c.barH := by
  rw [height_eq_min, scale_eq_div, divisor]

/-! ### The next state of MAP -/

/-- The state MAP leaves when the columns have the energies `es`, before its response: ZSNAP and, in
live mode, GAIN_LATCH taken once, and every column and label computed from them (R225 to R227). -/
def State.mapped (s : State) (es : List Nat) : State :=
  { s with
    zsnap := s.zoomLevel
    gainLatch := if s.cfg.gainLive then s.gainReading else s.gainLatch
    colBin := memOfList (columnBins s.cfg (s.cfg.zoomAt s.zoomLevel.toNat))
    colH := memOfList (es.map (fun e => BitVec.ofNat 5 (height s.cfg s.gainReading e)))
    lbl := memOfList (labelValues s.cfg (s.cfg.zoomAt s.zoomLevel.toNat))
    colValid := true
    history := s.history ++ (if s.cfg.gainLive then [.gainSample s.gainReading] else [])
    env := if s.cfg.gainLive then
        { s.env with gains := s.env.gains.tail, drawn := s.gainDraw.2.2 }
      else s.env }

/-- MAP's rule completes on valid bins whose windows all hold a value. -/
theorem mapStage_eq_mapped {s : State} {es : List Nat} (hv : s.binCnt = s.cfg.nb)
    (he : columnEnergies s.cfg s.binRe s.binIm (s.cfg.zoomAt s.zoomLevel.toNat) = some es) :
    mapStage s = .done (s.mapped es) := by
  rcases mapStage_cases s with ⟨hne, -⟩ | ⟨-, hnone, -⟩ | ⟨es', -, hsome, hstage⟩
  · exact absurd hv hne
  · rw [he] at hnone
    cases hnone
  · obtain rfl : es = es' := Option.some.inj (he.symm.trans hsome)
    rw [hstage, sampleGain_eq, State.mapped,
      ← funext (height_of_latched s.cfg s.gainReading s.gainLatch)]
    rfl

theorem exec_map_idle {s : State} {es : List Nat} (hs : s.idleReady) (hv : s.binCnt = s.cfg.nb)
    (he : columnEnergies s.cfg s.binRe s.binIm (s.cfg.zoomAt s.zoomLevel.toNat) = some es) :
    exec .map s = .next ((s.mapped es).respond .ok 0#32) := by
  obtain ⟨hm, hw⟩ := hs
  rw [exec_map, runCommand_done hm hw (mapStage_eq_mapped hv he)]

theorem State.mapped_colBin_read (s : State) (es : List Nat) {x : Nat} (hx : x < s.cfg.wCols) :
    memRead (s.mapped es).colBin x =
      some (binIndex s.cfg (s.cfg.zoomAt s.zoomLevel.toNat) x) := by
  rw [State.mapped, memRead_memOfList, columnBins_getElem? _ hx]

/-- A column holds the height of its own bin's energy, which its 5 bits can hold (R231). -/
theorem State.mapped_colH_read {s : State} (hc : s.cfg.Valid) (energy : Nat → Nat) {x : Nat}
    (hx : x < s.cfg.wCols) :
    ∃ h : BitVec 5,
      memRead (s.mapped ((columnBins s.cfg (s.cfg.zoomAt s.zoomLevel.toNat)).map energy)).colH x =
        some h ∧
      h.toNat = height s.cfg s.gainReading
        (energy (binIndex s.cfg (s.cfg.zoomAt s.zoomLevel.toNat) x)) := by
  refine ⟨_, ?_, toNat_ofNat_of_lt ((height_le_barH _ _ _).trans_lt (barH_lt_of_valid hc))⟩
  rw [State.mapped, memRead_memOfList, List.getElem?_map, List.getElem?_map,
    columnBins_getElem? _ hx, Option.map_some, Option.map_some]

theorem State.mapped_lbl_read {s : State} (hc : s.cfg.Valid)
    (hl : s.zoomLevel.toNat < s.cfg.levels) (es : List Nat) {j : Nat} (hj : j < s.cfg.nlbl) :
    ∃ v : BitVec 16, memRead (s.mapped es).lbl j = some v ∧
      v.toNat = khz s.cfg
        (binIndex s.cfg (s.cfg.zoomAt s.zoomLevel.toNat) (j * s.cfg.labelStep)) := by
  rw [State.mapped, memRead_memOfList]
  exact labelValues_getElem? hc hl hj

/-- Settles O18: the gain reading is `State.gainReading`, the energies are those of the bins read, and
the next state is `State.mapped` with its response. -/
theorem mapComputesColumns : Obligations.MapComputesColumns := by
  unfold Obligations.MapComputesColumns
  intro s re im hs hvalid hlevel hv hread
  obtain ⟨hpos, hle⟩ := zoomAt_bounds_of_valid hvalid hlevel
  have henergies := columnEnergies_of_read hread hpos hle
  refine ⟨_, s.gainReading, exec_map_idle hs hv henergies, s.gainReading_lt,
    fun v _ => State.gainReading_of_tape, fun x hx => ⟨?_, ?_⟩, fun j hj => ?_, ?_⟩
  · rw [State.respond_colBin]
    exact s.mapped_colBin_read _ hx
  · rintro i rfl
    rw [State.respond_colH, ← windowEnergyOf_eq_toNat, ← height_eq_min_div]
    exact State.mapped_colH_read hvalid (windowEnergyOf s.cfg re im) hx
  · rw [State.respond_lbl]
    exact State.mapped_lbl_read hvalid hlevel _ hj
  · cases hlive : s.cfg.gainLive <;> simp [State.mapped, State.respond, State.record, hlive]

end Sys2Proof.Machine
end

section
/-! SUPPORT. The zoom controller (46_zoom.md): what a zoom event does, and why nothing that a command or a
stage does writes ZOOM_LEVEL; then the two statements. -/

namespace Sys2Proof.Machine

/-! ### A zoom event -/

/-- The 4 bits of ZOOM_LEVEL hold every level of a valid record (00_scope.md section 4). -/
theorem zoomNext_toNat {c : Config} (hc : c.Valid) (level : BitVec 4) :
    (zoomNext c level).toNat = (level.toNat + 1) % c.levels := by
  obtain ⟨-, -, -, -, -, -, -, ⟨hpos, hmax⟩, -⟩ := hc
  exact toNat_ofNat_of_lt ((Nat.mod_lt _ hpos).trans_le hmax)

theorem step_zoom {s : State} {r : List Turn} (hc : s.cfg.Valid) (hr : s.env.sched = .zoom :: r) :
    step s = .next (zoomStep (s.withEnv { s.env with sched := r })) := by
  rw [step, stepOnce, if_pos hc, turn, hr]

/-- Settles O50: the new level is `zoomNext`, whose residue its 4 bits hold. -/
theorem zoomEventSteps : Obligations.ZoomEventSteps := by
  unfold Obligations.ZoomEventSteps
  exact fun s r hc hr => ⟨zoomNext s.cfg s.zoomLevel, zoomNext_toNat hc _, step_zoom hc hr⟩

/-! ### Everything else a step can do -/

@[simp] theorem sampleGain_zoomLevel (s : State) : (sampleGain s).zoomLevel = s.zoomLevel := by
  rw [sampleGain_eq]

@[simp] theorem advanceStage_zoomLevel (s : State) : (advanceStage s).zoomLevel = s.zoomLevel := by
  unfold advanceStage
  cases s.seq with
  | flush => cases s.mode <;> rfl
  | capture | rmdc | xfexec | map | render => rfl

/-- No rule of a command or a stage writes ZOOM_LEVEL, however it ends (R248). -/
theorem rules_keep_zoomLevel {rule : State → RuleResult} (hrule : rule ∈ rules) (s : State) :
    (rule s).keeps (fun t => t.zoomLevel = s.zoomLevel) := by
  simp only [rules, List.mem_cons, List.not_mem_nil, or_false] at hrule
  rcases hrule with rfl | rfl | rfl | rfl | rfl | rfl | rfl | rfl
  · rcases captureStage_cases s with ⟨_, h⟩ | ⟨_, _, _, _, ⟨h, -⟩ | ⟨h, -⟩⟩ <;> rw [h] <;> rfl
  · rcases rmdcStage_cases s with ⟨-, h⟩ | ⟨-, -, h⟩ | ⟨_, -, -, h⟩ <;> rw [h] <;> trivial
  · rcases xfexecStage_cases s with ⟨-, h⟩ | ⟨-, -, h⟩ | ⟨-, -, -, h⟩ | ⟨_, _, -, -, -, h⟩ |
      ⟨_, _, _, -, -, -, h⟩ <;> rw [h] <;> trivial
  · rcases mapStage_cases s with ⟨-, h⟩ | ⟨-, -, h⟩ | ⟨_, -, -, h⟩ <;> rw [h]
    · rfl
    · trivial
    · exact sampleGain_zoomLevel _
  · rcases renderStage_cases s with ⟨-, h⟩ | ⟨-, h⟩ | ⟨_, _, _, -, -, -, h⟩ |
      ⟨_, _, _, _, -, -, -, h⟩ <;> rw [h] <;> trivial
  · rcases flushStage_cases s with ⟨-, h⟩ | ⟨_, _, -, -, h⟩ | ⟨_, _, _, _, -, ⟨-, h⟩ | ⟨-, h⟩⟩ <;>
      rw [h] <;> rfl
  · rcases xfinitRule_cases s with ⟨-, h⟩ | ⟨_, -, h⟩ |
      ⟨_, _, _, _, _, -, -, ⟨-, h⟩ | ⟨-, h⟩⟩ <;> rw [h] <;> rfl
  · rcases xfrelRule_cases s with ⟨-, h⟩ | ⟨_, -, h⟩ | ⟨_, -, h⟩ <;> rw [h] <;> rfl

theorem takeWord_zoomLevel {w : Word} {s t : State} (hr : s.cmdReady = true)
    (h : takeWord w s = .next t) : t.zoomLevel = s.zoomLevel := by
  rcases takeWord_next hr h with ⟨_, _, rfl⟩ | ⟨-, -, ⟨_, _, _, rfl⟩ | ⟨_, -, rfl⟩ |
    ⟨rule, hrule, hends⟩⟩
  · rfl
  · rfl
  · rfl
  · have hkeep := rules_keep_zoomLevel hrule s
    rcases hends with ⟨u, hu, rfl⟩ | ⟨_, _, _, u, hu, rfl⟩ | ⟨_, u, hu, rfl⟩ <;>
      rw [hu] at hkeep <;> exact hkeep

theorem runStage_zoomLevel {s t : State} (h : runStage s = .next t) :
    t.zoomLevel = s.zoomLevel := by
  have hkeep := rules_keep_zoomLevel (stageRule_mem s.seq) s
  rcases runStage_next h with ⟨u, hu, rfl⟩ | ⟨_, u, hu, rfl⟩ | ⟨_, u, hu, rfl⟩ <;> rw [hu] at hkeep
  · exact (advanceStage_zoomLevel u).trans hkeep
  · exact hkeep
  · exact hkeep

/-- No command writes ZOOM_LEVEL, nor does a stage of FRAME or RUN (R248). -/
theorem sequencerTurn_zoomLevel {s t : State} (h : sequencerTurn s = .next t) :
    t.zoomLevel = s.zoomLevel := by
  rcases sequencerTurn_next h with rfl | ⟨w, ws, hr, -, hw⟩ | ⟨-, -, hstage⟩
  · rfl
  · exact (takeWord_zoomLevel hr hw).trans (s.withEnv_zoomLevel _)
  · exact runStage_zoomLevel hstage

/-- Settles O51: without a zoom event and a reset a turn passes or is the sequencer's. -/
theorem onlyZoomEventChangesLevel : Obligations.OnlyZoomEventChangesLevel := by
  unfold Obligations.OnlyZoomEventChangesLevel
  intro s t hzoom hreset h
  obtain ⟨-, hturn⟩ := step_next h
  rcases turn_next hturn with ⟨r, hr, -⟩ | ⟨r, hr, -⟩ | ⟨_, r, -, -, -, rfl⟩ | ⟨-, -, r, -, hseq⟩
  · rw [hr] at hzoom
    exact absurd rfl hzoom
  · rw [hr] at hreset
    exact absurd rfl hreset
  · rfl
  · exact (sequencerTurn_zoomLevel hseq).trans (s.withEnv_zoomLevel _)

end Sys2Proof.Machine
end

section
/-! SUPPORT. The bar-graph renderer (47_renderer.md): RENDER's request list with the columns and labels
read, what the requests leave in TXT, the full next states of RENDER and FLUSH; then the two
statements. -/

namespace Sys2Proof.Machine

/-! ### The request list, element by element -/

/-- A walk over the elements a guard selects is a walk over all of them that skips the others. -/
theorem flatMap_filter_eq_flatMap_ite {α β : Type} (p : α → Prop) [DecidablePred p]
    (f : α → List β) (l : List α) :
    (l.filter (fun a => p a)).flatMap f = l.flatMap (fun a => if p a then f a else []) := by
  induction l with
  | nil => rfl
  | cons a l ih => by_cases ha : p a <;> simp [ha, ih]

/-- `flatMap_filter_eq_flatMap_ite` for a walk that gives one value per element. -/
theorem map_filter_eq_flatMap_ite {α β : Type} (p : α → Prop) [DecidablePred p]
    (f : α → β) (l : List α) :
    (l.filter (fun a => p a)).map f = l.flatMap (fun a => if p a then [f a] else []) := by
  rw [List.map_eq_flatMap, flatMap_filter_eq_flatMap_ite]

/-- The horizontal guidelines, row by row (R266). -/
theorem hGuides_eq (c : Config) :
    hGuides c = (List.range c.barH).flatMap (fun y => if y % c.gridY = 0 then
      (List.range c.wPx).flatMap (fun x => if x % c.dot = 0 then [.setPx x y] else [])
      else []) := by
  simp only [hGuides, flatMap_filter_eq_flatMap_ite, map_filter_eq_flatMap_ite]

/-- The vertical ticks, column by column (R267). -/
theorem vTicks_eq (c : Config) :
    vTicks c = (List.range c.wPx).flatMap (fun x => if x % c.gridX = 0 then
      (List.range c.barH).flatMap (fun y => if y % c.dot = 0 then [.setPx x y] else [])
      else []) := by
  simp only [vTicks, flatMap_filter_eq_flatMap_ite, map_filter_eq_flatMap_ite]

theorem barsFrom_range' (c : Config) (h : Nat → BitVec 5) (n x : Nat) :
    barsFrom c x ((List.range' x n).map h) =
      (List.range' x n).flatMap (fun x => barRequests c x (h x)) := by
  induction n generalizing x with
  | zero => rfl
  | succ n ih => simp [List.range'_succ, barsFrom, ih]

theorem labelsFrom_range' (c : Config) (l : Nat → BitVec 16) (n j : Nat) :
    labelsFrom c j ((List.range' j n).map l) =
      (List.range' j n).map (fun j => labelRequest c j (l j)) := by
  induction n generalizing j with
  | zero => rfl
  | succ n ih => simp [List.range'_succ, labelsFrom, ih]

/-- The bars of the columns `0 .. n-1`, column by column (R265). -/
theorem barsFrom_range (c : Config) (h : Nat → BitVec 5) (n : Nat) :
    barsFrom c 0 ((List.range n).map h) =
      (List.range n).flatMap (fun x => barRequests c x (h x)) := by
  rw [List.range_eq_range', barsFrom_range']

/-- The requests of the labels `0 .. n-1` in order (R272). -/
theorem labelsFrom_range (c : Config) (l : Nat → BitVec 16) (n : Nat) :
    labelsFrom c 0 ((List.range n).map l) =
      (List.range n).map (fun j => labelRequest c j (l j)) := by
  rw [List.range_eq_range', labelsFrom_range']

/-- A space with a value at each of the first `n` indices is read whole. -/
theorem memReadRange_of_read {α : Type} {m : Mem α} {n : Nat} {f : Nat → α}
    (h : ∀ k, k < n → memRead m k = some (f k)) :
    memReadRange m n = some ((List.range n).map f) := by
  rw [memReadRange, collect_eq_some, List.map_map]
  exact List.map_congr_left fun k hk => h k (List.mem_range.1 hk)

/-! ### What the requests leave in TXT -/

/-- A request that sets one pixel. -/
def DispReq.IsPixel (r : DispReq) : Prop := ∃ x y, r = .setPx x y

/-- The request that leaves the entry `t` in TXT (R91). -/
def textRequest (t : TextReq) : DispReq := .text t.x t.y t.scale t.str

/-- The entry of TXT that the request of label `j` leaves (R272, R273). -/
def labelText (c : Config) (j : Nat) (v : BitVec 16) : TextReq :=
  ⟨labelX c j (labelString v), c.barH, c.textScale, labelString v⟩

theorem labelRequest_eq (c : Config) (j : Nat) (v : BitVec 16) :
    labelRequest c j v = textRequest (labelText c j v) := rfl

theorem drawAll_append (c : Config) (f : Frame) (as bs : List DispReq) :
    drawAll c f (as ++ bs) = drawAll c (drawAll c f as) bs := List.foldl_append

/-- Pixels leave TXT as it is (R91). -/
theorem drawAll_texts_of_pixels (c : Config) (f : Frame) {reqs : List DispReq}
    (h : ∀ r ∈ reqs, r.IsPixel) : (drawAll c f reqs).texts = f.texts := by
  induction reqs generalizing f with
  | nil => rfl
  | cons r reqs ih =>
    rw [List.forall_mem_cons] at h
    obtain ⟨⟨x, y, rfl⟩, hreqs⟩ := h
    exact ih _ hreqs

/-- Text requests are appended to TXT in order (R91). -/
theorem drawAll_texts_of_requests (c : Config) (f : Frame) (ts : List TextReq) :
    (drawAll c f (ts.map textRequest)).texts = f.texts ++ ts := by
  induction ts generalizing f with
  | nil => exact (List.append_nil _).symm
  | cons t ts ih => exact (ih _).trans (List.append_assoc _ [t] ts)

/-- The part of RENDER's requests between the clear and the labels. -/
def pixelRequests (c : Config) (hs : List (BitVec 5)) : List DispReq :=
  hGuides c ++ vTicks c ++ barsFrom c 0 hs ++ borders c

theorem renderRequests_eq_pixels (c : Config) (hs : List (BitVec 5)) (ls : List (BitVec 16)) :
    renderRequests c hs ls = [.clear] ++ pixelRequests c hs ++ labelsFrom c 0 ls := by
  simp only [renderRequests, pixelRequests, List.append_assoc]

theorem barsFrom_isPixel (c : Config) (x : Nat) (hs : List (BitVec 5)) :
    ∀ r ∈ barsFrom c x hs, r.IsPixel := by
  induction hs generalizing x with
  | nil => nofun
  | cons h hs ih =>
    rw [barsFrom, List.forall_mem_append]
    exact ⟨List.forall_mem_map.2 fun t _ => ⟨x, _, rfl⟩, ih (x + 1)⟩

theorem pixelRequests_isPixel (c : Config) (hs : List (BitVec 5)) :
    ∀ r ∈ pixelRequests c hs, r.IsPixel := by
  simp only [pixelRequests, borders, List.forall_mem_append]
  refine ⟨⟨⟨?guides, ?ticks⟩, barsFrom_isPixel c 0 hs⟩, ?left, ?right⟩
  case guides =>
    exact List.forall_mem_flatMap.2 fun y _ => List.forall_mem_map.2 fun x _ => ⟨x, y, rfl⟩
  case ticks =>
    exact List.forall_mem_flatMap.2 fun x _ => List.forall_mem_map.2 fun y _ => ⟨x, y, rfl⟩
  case left => exact List.forall_mem_map.2 fun y _ => ⟨0, y, rfl⟩
  case right => exact List.forall_mem_map.2 fun y _ => ⟨c.wPx - 1, y, rfl⟩

/-- The clear empties TXT, the pixels leave it empty, and the labels fill it (R272). -/
theorem renderRequests_texts (c : Config) (f : Frame) (hs : List (BitVec 5)) (n : Nat)
    (l : Nat → BitVec 16) :
    (drawAll c f (renderRequests c hs ((List.range n).map l))).texts =
      (List.range n).map (fun j => labelText c j (l j)) := by
  have hlabels : labelsFrom c 0 ((List.range n).map l) =
      ((List.range n).map (fun j => labelText c j (l j))).map textRequest := by
    simp only [labelsFrom_range, labelRequest_eq, List.map_map, Function.comp_def]
  rw [renderRequests_eq_pixels, drawAll_append, drawAll_append, hlabels,
    drawAll_texts_of_requests, drawAll_texts_of_pixels c _ (pixelRequests_isPixel c hs)]
  rfl

/-! ### The next state of RENDER -/

/-- The state RENDER leaves when it has sent the requests `reqs`, before its response: the picture they
draw, marked as rendered (R261). -/
def State.rendered (s : State) (reqs : List DispReq) : State :=
  { s with
    dfValid := true
    df := (drawAll s.cfg ⟨s.df, s.txt⟩ reqs).pixels
    txt := (drawAll s.cfg ⟨s.df, s.txt⟩ reqs).texts
    history := s.history ++ reqs.map .disp
    env := { s.env with dispLeft := s.env.dispLeft.map (fun k => k - reqs.length) } }

theorem exec_render_idle {s : State} {hs : List (BitVec 5)} {ls : List (BitVec 16)}
    (hi : s.idleReady) (hc : s.colValid = true) (hh : memReadRange s.colH s.cfg.wCols = some hs)
    (hl : memReadRange s.lbl s.cfg.nlbl = some ls)
    (ha : answers s.env.dispLeft (renderRequests s.cfg hs ls).length) :
    exec .render s = .next ((s.rendered (renderRequests s.cfg hs ls)).respond .ok 0#32) := by
  obtain ⟨hm, hw⟩ := hi
  rw [exec_render, runCommand_done hm hw (renderStage_done hc hh hl ha), serve_snd_of_answers ha]
  rfl

/-- Settles O27: the requests listed are `renderRequests` of the heights and labels read, and the next
state is `State.rendered` with its response. -/
theorem renderLabelsAndFrame : Obligations.RenderLabelsAndFrame := by
  unfold Obligations.RenderLabelsAndFrame
  intro s h l hs hc hh hl width lx requests ha
  have hrequests : renderRequests s.cfg ((List.range s.cfg.wCols).map h)
      ((List.range s.cfg.nlbl).map l) = requests := by
    rw [renderRequests, hGuides_eq, vTicks_eq, barsFrom_range, labelsFrom_range, borders,
      ← List.append_assoc]
    rfl
  rw [← hrequests] at ha ⊢
  refine ⟨_, exec_render_idle hs hc (memReadRange_of_read hh) (memReadRange_of_read hl) ha, ?_, rfl⟩
  exact renderRequests_texts s.cfg ⟨s.df, s.txt⟩ _ _ l

/-! ### The next state of FLUSH -/

theorem flushStage_seq {s : State} (hv : s.dfValid = false) : flushStage s = .raised .seq s := by
  simp [flushStage, hv]

/-- The display's answer to the next flush request, the rest of the tape and the next number: one draw
(R91). -/
def State.flushDraw (s : State) : Bool × List Bool × Nat :=
  drawOne s.env.flushes Config.freeFlush s.env.drawn

/-- The `ok` of that answer. -/
def State.flushOk (s : State) : Bool := s.flushDraw.1

/-- The answer's `ok` is the tape's. -/
theorem State.flushOk_of_tape {s : State} {ok : Bool} {r : List Bool}
    (ht : s.env.flushes = ok :: r) : s.flushOk = ok := by
  rw [State.flushOk, State.flushDraw, ht, drawOne_cons]

/-- The state after the display has answered the flush request, its answer recorded and not yet acted
on. -/
def State.flushAnswered (s : State) : State :=
  { s with
    history := s.history ++ [.disp .flush, .flushAnswer s.flushOk]
    env := { s.env with
      dispLeft := s.env.dispLeft.map (fun k => k - 2)
      flushes := s.env.flushes.tail
      drawn := s.flushDraw.2.2 } }

/-- The response follows the request and its answer in the history (R95). -/
theorem flushAnswered_history_append (s : State) (e : Event) :
    s.flushAnswered.history ++ [e] =
      s.history ++ [.disp .flush, .flushAnswer s.flushOk, e] :=
  List.append_assoc _ _ _

/-- The state with DEV a picture of the device's own choice (R91). -/
def State.devUnspecified (s : State) : State :=
  { s with dev := Config.freeDev s.env.drawn, env := { s.env with drawn := s.env.drawn + 1 } }

/-- FLUSH's rule with a display that answers: it turns on the answer's `ok` alone (R278, R280). -/
theorem flushStage_answered {s : State} (hv : s.dfValid = true) (ha : answers s.env.dispLeft 2) :
    flushStage s = if s.flushOk
      then .done { s.flushAnswered with dev := some ⟨s.df, s.txt⟩ }
      else .raised .dispfail s.flushAnswered.devUnspecified := by
  have hdraw : (drawOne s.env.flushes Config.freeFlush s.env.drawn).1 = s.flushOk := rfl
  cases hok : s.flushOk <;>
    simp [flushStage, hv, serve_of_answers ha, hdraw, hok, drawOne_rest, State.flushAnswered,
      State.devUnspecified, State.flushDraw, State.record]

theorem exec_flush_ok {s : State} (hs : s.idleReady) (hv : s.dfValid = true)
    (ha : answers s.env.dispLeft 2) (hok : s.flushOk = true) :
    exec .flush s = .next (State.respond
      { s.flushAnswered with dev := some ⟨s.df, s.txt⟩ } .ok 0#32) := by
  obtain ⟨hm, hw⟩ := hs
  rw [exec_flush, runCommand_done hm hw ((flushStage_answered hv ha).trans (if_pos hok))]

theorem exec_flush_dispfail {s : State} (hs : s.idleReady) (hv : s.dfValid = true)
    (ha : answers s.env.dispLeft 2) (hok : s.flushOk = false) :
    exec .flush s =
      .next (takeFault .dispfail 0x06#8 Stage.flush.index s.flushAnswered.devUnspecified) := by
  obtain ⟨hm, hw⟩ := hs
  have hrule := (flushStage_answered hv ha).trans (if_neg (by simp [hok]))
  rw [exec_flush, runCommand_raised hm hw hrule]
  rfl

/-- Settles O31: the answer is the draw `State.flushDraw`, of the tape when it lists one; the next state
is `State.flushAnswered` with the picture handed over, or with the fault. -/
theorem flushHandsFrameOver : Obligations.FlushHandsFrameOver := by
  unfold Obligations.FlushHandsFrameOver
  intro s hs answered
  have hanswered (hv : s.dfValid = true) (ha : answers s.env.dispLeft 2) :
      ∃ t, answered s.flushOk t := by
    cases hok : s.flushOk with
    | true =>
      refine ⟨_, exec_flush_ok hs hv ha hok, fun _ => ?_, nofun⟩
      rw [← hok, ← flushAnswered_history_append]
      rfl
    | false =>
      refine ⟨_, exec_flush_dispfail hs hv ha hok, nofun, fun _ => ?_⟩
      rw [← hok, ← flushAnswered_history_append]
      rfl
  refine ⟨fun hv ha => ⟨fun ok r ht => ?_, fun _ => ⟨s.flushOk, hanswered hv ha⟩⟩, fun hv => ?_⟩
  · rw [← State.flushOk_of_tape ht]
    exact hanswered hv ha
  · obtain ⟨hm, hw⟩ := hs
    rw [exec_flush, runCommand_raised hm hw (flushStage_seq hv)]
    rfl

end Sys2Proof.Machine
end

section
/-! SUPPORT. LD (48_load.md): the number of a space and its size, what each outcome of the checks of
`loadElement` needs, the answer of LD in MODE IDLE and in MODE HALTED; then the two statements. -/

namespace Sys2Proof.Machine

/-! ### Space numbers -/

/-- The number by which LD names a space (20_memory.md R70). -/
def Space.number : Space → Nat
  | .csr => 0
  | .sb => 1
  | .cs => 2
  | .binRe => 3
  | .binIm => 4
  | .colH => 5
  | .colBin => 6
  | .lbl => 7
  | .df => 8
  | .freq => 9

@[simp] theorem spaceOf_number (sp : Space) : spaceOf sp.number = some sp := by
  cases sp <;> rfl

theorem spaceOf_reserved {space : Nat} (h : 10 ≤ space) : spaceOf space = none := by
  obtain ⟨k, rfl⟩ := Nat.exists_eq_add_of_le' h
  rfl

/-- A number below the reserved ones names a space (R70). -/
theorem exists_number_eq {space : Nat} (h : space < 10) : ∃ sp : Space, sp.number = space := by
  have hall : ∀ k < 10, ∃ sp ∈ spaceOf k, sp.number = k := by decide
  obtain ⟨sp, -, hsp⟩ := hall space h
  exact ⟨sp, hsp⟩

/-! ### The checks of LD -/

/-- How many indices a space has (20_memory.md R70); for CSR its reserved address counts too. -/
def Space.size (c : Config) : Space → Nat
  | .csr => 0x20
  | .sb | .cs => c.n
  | .binRe | .binIm | .freq => c.nb
  | .colH | .colBin => c.wCols
  | .lbl => c.nlbl
  | .df => c.pixels

/-- The range check of the model: below the size, and no reserved CSR address (R58). -/
theorem indexInRange_iff {c : Config} {sp : Space} {i : Nat} :
    indexInRange c sp i = true ↔ i < sp.size c ∧ ¬ (sp = .csr ∧ i = 0x0F) := by
  cases sp <;> simp [indexInRange, Space.size]

/-- R293, on the space that the number names: above the last index, or the reserved CSR address. -/
theorem outsideSpaces_number_iff {c : Config} {sp : Space} {i : Nat} :
    outsideSpaces c sp.number i ↔ sp.size c - 1 < i ∨ (sp = .csr ∧ i = 0x0F) := by
  cases sp with
  | csr => simp [outsideSpaces, Space.number, Space.size]; omega
  | _ => simp [outsideSpaces, Space.number, Space.size, Config.nb, Config.pixels]

theorem nlbl_pos_of_valid {c : Config} (hc : c.Valid) : 0 < c.nlbl := by
  obtain ⟨-, -, -, -, -, ⟨hcols, -⟩, -, -, -, -, -, -, -, ⟨hstep, -⟩, -⟩ := hc
  exact Nat.div_pos (by omega) hstep

theorem pixels_pos_of_valid {c : Config} (hc : c.Valid) : 0 < c.pixels := by
  obtain ⟨-, -, -, ⟨hw, -⟩, ⟨hh, -⟩, -, ⟨hbar, -⟩, -⟩ := hc
  exact Nat.mul_pos (by omega) (by omega)

/-- No space of a valid record is empty: each has a last index. -/
theorem Space.size_pos_of_valid {c : Config} (hc : c.Valid) (sp : Space) : 0 < sp.size c := by
  cases sp with
  | csr => exact Nat.succ_pos _
  | sb | cs => exact n_pos c
  | binRe | binIm | freq => exact Nat.succ_pos _
  | colH | colBin =>
    obtain ⟨-, -, -, -, -, ⟨hcols, -⟩, -⟩ := hc
    exact hcols
  | lbl => exact nlbl_pos_of_valid hc
  | df => exact pixels_pos_of_valid hc

theorem indexInRange_of_outside {c : Config} {sp : Space} {i : Nat}
    (h : outsideSpaces c sp.number i) : indexInRange c sp i = false := by
  rw [← Bool.not_eq_true, indexInRange_iff]
  rw [outsideSpaces_number_iff] at h
  rintro ⟨hlt, hcsr⟩
  exact h.elim (by omega) hcsr

theorem indexInRange_of_not_outside {c : Config} (hc : c.Valid) {sp : Space} {i : Nat}
    (h : ¬ outsideSpaces c sp.number i) : indexInRange c sp i = true := by
  have hpos := sp.size_pos_of_valid hc
  rw [outsideSpaces_number_iff, not_or] at h
  obtain ⟨hle, hcsr⟩ := h
  exact indexInRange_iff.2 ⟨by omega, hcsr⟩

/-- The check for a value is R294's, on the space that the number names. -/
theorem elementEmpty_number_iff {s : State} {sp : Space} {i : Nat} :
    s.elementEmpty sp.number i ↔ holdsValue s sp i = false := by
  cases sp <;> simp [State.elementEmpty, Space.number, holdsValue]

/-- Only a space of R70 has an element that holds no value. -/
theorem State.elementEmpty.exists_space {s : State} {space i : Nat} (h : s.elementEmpty space i) :
    ∃ sp : Space, sp.number = space ∧ holdsValue s sp i = false := by
  have hlt : space < 10 := by unfold State.elementEmpty at h; omega
  obtain ⟨sp, rfl⟩ := exists_number_eq hlt
  exact ⟨sp, rfl, elementEmpty_number_iff.1 h⟩

/-! ### What LD reads -/

theorem loadElement_ok {s : State} {sp : Space} {i : Nat} {v : Word}
    (hi : indexInRange s.cfg sp i = true) (hv : holdsValue s sp i = true)
    (hr : spaceRead s sp i = some v) : loadElement s sp.number i = .ok v := by
  simp [loadElement, hi, hv, hr]

theorem loadElement_idx {s : State} {space i : Nat} (h : outsideSpaces s.cfg space i) :
    loadElement s space i = .error .idx := by
  by_cases hres : 10 ≤ space
  · simp [loadElement, spaceOf_reserved hres]
  · obtain ⟨sp, rfl⟩ := exists_number_eq (Nat.lt_of_not_le hres)
    simp [loadElement, indexInRange_of_outside h]

/-- The range check comes before the check for a value (R295). -/
theorem loadElement_of_not_holdsValue {s : State} {sp : Space} {i : Nat}
    (hv : holdsValue s sp i = false) :
    loadElement s sp.number i = .error (if indexInRange s.cfg sp i then .unwr else .idx) := by
  cases hi : indexInRange s.cfg sp i <;> simp [loadElement, hi, hv]

theorem loadElement_unwr {s : State} {space i : Nat} (hc : s.cfg.Valid)
    (hin : ¬ outsideSpaces s.cfg space i) (h : s.elementEmpty space i) :
    loadElement s space i = .error .unwr := by
  obtain ⟨sp, rfl, hv⟩ := h.exists_space
  rw [loadElement_of_not_holdsValue hv, indexInRange_of_not_outside hc hin, if_pos rfl]

/-- Each of the two conditions fails a check, in any record. -/
theorem loadElement_error {s : State} {space i : Nat}
    (h : outsideSpaces s.cfg space i ∨ s.elementEmpty space i) :
    ∃ c, loadElement s space i = .error c := by
  rcases h with hout | hempty
  · exact ⟨_, loadElement_idx hout⟩
  · obtain ⟨sp, rfl, hv⟩ := hempty.exists_space
    exact ⟨_, loadElement_of_not_holdsValue hv⟩

/-! ### The answer of LD -/

/-- LD of an element that passes the checks answers it, in both modes that take a command (R296). -/
theorem exec_ld_answers {s : State} (hs : s.idleReady ∨ s.mode = .halted) (sp : Space) {i : Nat}
    {v : Word} (hi : indexInRange s.cfg sp i = true) (hv : holdsValue s sp i = true)
    (hr : spaceRead s sp i = some v) :
    exec (.ld sp.number i) s = .next (s.respond .ok v) := by
  have hload := loadElement_ok hi hv hr
  rcases hs with ⟨hm, hw⟩ | hm
  · rw [exec_ld_idle hm hw, hload]
  · rw [exec_ld_halted hm, hload]

/-- In every space but CSR the range check is the comparison with the size. -/
theorem exec_ld_buffer {s : State} (hs : s.idleReady ∨ s.mode = .halted) (sp : Space) {i : Nat}
    {v : Word} (hi : i < sp.size s.cfg) (hv : holdsValue s sp i = true)
    (hr : spaceRead s sp i = some v) (hsp : sp ≠ .csr := by decide) :
    exec (.ld sp.number i) s = .next (s.respond .ok v) :=
  exec_ld_answers hs sp (indexInRange_iff.2 ⟨hi, fun h => hsp h.1⟩) hv hr

theorem exec_ld_raises {s : State} (hs : s.idleReady) {space i : Nat} {c : Cause}
    (h : loadElement s space i = .error c) :
    exec (.ld space i) s = .next (takeFault c 0x20#8 noStage s) := by
  obtain ⟨hm, hw⟩ := hs
  rw [exec_ld_idle hm hw, h]

theorem exec_ld_refused {s : State} (hm : s.mode = .halted) {space i : Nat} {c : Cause}
    (h : loadElement s space i = .error c) :
    exec (.ld space i) s = .next (s.respond .refused s.fault.word) := by
  rw [exec_ld_halted hm, h]

/-! ### The extension to 32 bits -/

/-- Sign extension keeps the value of an element of at most 32 bits (R292). -/
theorem toInt_ofInt_of_signedIn {w : Nat} {v : Int} (hw : w ≤ 32) (h : signedIn w v) :
    (BitVec.ofInt 32 v).toInt = v := by
  have hle : (2 : Int) ^ (w - 1) ≤ 2 ^ 31 := pow_le_pow_right₀ (by decide) (by omega)
  obtain ⟨hlo, hhi⟩ := h
  exact BitVec.toInt_ofInt_eq_self (by decide) (by omega) (by omega)

theorem csW_le_of_valid {c : Config} (hc : c.Valid) : c.csW ≤ 32 := by
  obtain ⟨⟨-, hlogN⟩, -⟩ := hc
  unfold Config.csW
  omega

theorem bw_le_of_valid {c : Config} (hc : c.Valid) : c.bw ≤ 32 := by
  obtain ⟨-, -, ⟨-, hbw⟩, -⟩ := hc
  exact hbw

/-- FREQ fits 32 bits: FS is below `2^20` and a bin index at most 2048. -/
theorem freq_lt_of_valid {c : Config} (hc : c.Valid) {i : Nat} (hi : i < c.nb) :
    freq c i < 2 ^ 32 := by
  have hn := n_le_of_valid hc
  obtain ⟨-, ⟨-, hfs⟩, -⟩ := hc
  have hi' : i ≤ 2048 := by unfold Config.nb at hi; omega
  calc freq c i ≤ 2 ^ 20 * 2048 := Nat.mul_le_mul hfs.le hi'
    _ < 2 ^ 32 := by decide

/-! ### The statements -/

/-- Settles O39: an element in range that holds a value passes the checks of its space, and its
value fits the 32 bits it is extended to. -/
theorem ldAnswersElement : Obligations.LdAnswersElement := by
  unfold Obligations.LdAnswersElement
  intro s hc hs
  have hcsW := csW_le_of_valid hc
  have hbw := bw_le_of_valid hc
  have hn := n_le_of_valid hc
  refine ⟨fun a v ha hne hr => ?csr,
    fun i v hi hv hr => ⟨_, BitVec.toNat_setWidth_of_le (by decide), ?sb⟩,
    fun i v hi hv hr hsigned => ⟨_, toInt_ofInt_of_signedIn hcsW hsigned, ?cs⟩,
    fun i v hi hv hr hsigned => ⟨_, toInt_ofInt_of_signedIn hbw hsigned, ?binRe⟩,
    fun i v hi hv hr hsigned => ⟨_, toInt_ofInt_of_signedIn hbw hsigned, ?binIm⟩,
    fun i v hi hv hr => ⟨_, BitVec.toNat_setWidth_of_le (by decide), ?colH⟩,
    fun i v hi hv hr hlt => ⟨_, toNat_ofNat_of_lt (by omega), ?colBin⟩,
    fun i v hi hv hr => ⟨_, BitVec.toNat_setWidth_of_le (by decide), ?lbl⟩,
    fun i v hi hv hr => ⟨_, BitVec.toNat_setWidth_of_le (by decide), ?df⟩,
    fun i hi => ⟨_, toNat_ofNat_of_lt (freq_lt_of_valid hc hi), ?freq⟩⟩
  case csr => exact exec_ld_answers hs .csr (indexInRange_iff.2 ⟨ha, fun h => hne h.2⟩) rfl hr
  case sb => exact exec_ld_buffer hs .sb hi (decide_eq_true hv) (congrArg (Option.map _) hr)
  case cs => exact exec_ld_buffer hs .cs hi (decide_eq_true hv) (congrArg (Option.map _) hr)
  case binRe => exact exec_ld_buffer hs .binRe hi (decide_eq_true hv) (congrArg (Option.map _) hr)
  case binIm => exact exec_ld_buffer hs .binIm hi (decide_eq_true hv) (congrArg (Option.map _) hr)
  case colH => exact exec_ld_buffer hs .colH hi hv (congrArg (Option.map _) hr)
  case colBin => exact exec_ld_buffer hs .colBin hi hv (congrArg (Option.map _) hr)
  case lbl => exact exec_ld_buffer hs .lbl hi hv (congrArg (Option.map _) hr)
  case df => exact exec_ld_buffer hs .df hi hv (congrArg (Option.map _) hr)
  case freq => exact exec_ld_buffer hs .freq hi rfl rfl

/-- Settles O40: the failed check names the cause in MODE IDLE; in MODE HALTED any failed check is
refused. -/
theorem ldFaults : Obligations.LdFaults := by
  unfold Obligations.LdFaults
  intro s space index
  refine ⟨fun hs hout => exec_ld_raises hs (loadElement_idx hout),
    fun hs hin hc hempty => exec_ld_raises hs (loadElement_unwr hc hin hempty),
    fun hm hfails => ?_⟩
  obtain ⟨c, hload⟩ := loadElement_error hfails
  exact exec_ld_refused hm hload

end Sys2Proof.Machine
end

section
/-! SUPPORT. Encoding and decoding are inverse to each other (30_encoding.md R111, R112), and the words the
spec writes out; then the three statements. -/

namespace Sys2Proof

/-- Only LD has LD's opcode byte (R113). -/
theorem opcode_ne_ld {i : Instr} (hi : ∀ space index, i ≠ .ld space index) : i.opcode ≠ 0x20#8 := by
  cases i with
  | ld space index => exact absurd rfl (hi space index)
  | _ => decide

/-- A format Z command is encoded as its opcode byte above 24 zeros (R111). -/
theorem encode_formatZ {i : Instr} (hi : i.opcode ≠ 0x20#8) : encode i = i.opcode ++ 0#24 := by
  cases i with
  | ld space index => exact absurd rfl hi
  | _ => rfl

theorem decode_encode_formatZ {i : Instr} (hi : i.opcode ≠ 0x20#8) : decode (encode i) = .ok i :=
  (decode_eq_ok_iff_word hi).2 (encode_formatZ hi)

/-- An LD is encoded as its opcode byte, its space, a zero field and its index (R112). -/
theorem encode_ld (space index : Nat) : encode (.ld space index) =
    0x20#8 ++ BitVec.ofNat 4 space ++ 0#4 ++ BitVec.ofNat 16 index := rfl

/-- LD's operands come back from their fields when the fields can hold them (R112). -/
theorem decode_encode_ld {space index : Nat} (hspace : space < 2 ^ 4) (hindex : index < 2 ^ 16) :
    decode (encode (.ld space index)) = .ok (.ld space index) := by
  rw [decode_eq_ok_iff, encode_ld, opField_append, zeroFieldL_append, spaceField_append,
    indexField_append]
  refine .inr ⟨rfl, rfl, ?_⟩
  rw [BitVec.toNat_ofNat, BitVec.toNat_ofNat, Nat.mod_eq_of_lt hspace,
    Nat.mod_eq_of_lt hindex]
/-- Settles O2: a format Z command has one word; LD's operands fit their fields. -/
theorem decodeOfEncode : Obligations.DecodeOfEncode := by
  unfold Obligations.DecodeOfEncode
  intro i hi
  cases i with
  | ld space index =>
    simp only [Instr.wellFormed, Bool.and_eq_true, decide_eq_true_eq] at hi
    obtain ⟨hspace, hindex⟩ := hi
    exact decode_encode_ld hspace hindex
  | _ => exact decode_encode_formatZ (by decide)

/-- The word whose fields are LD's is the encoding of the LD with those operands (R112). -/
theorem encode_ld_fields {w : Word} (hop : opField w = 0x20#8) (hzero : zeroFieldL w = 0#4) :
    encode (.ld (spaceField w).toNat (indexField w).toNat) = w := by
  rw [encode_ld, BitVec.ofNat_toNat, BitVec.ofNat_toNat, BitVec.setWidth_eq, BitVec.setWidth_eq]
  conv_rhs => rw [← formatL_fields w, hop, hzero]
/-- Settles O3: the word of a format Z command is its opcode byte above zeros, that of an LD its four
fields, which bound its operands. -/
theorem encodeOfDecode : Obligations.EncodeOfDecode := by
  unfold Obligations.EncodeOfDecode
  intro w i h
  by_cases hld : ∃ space index, i = .ld space index
  · obtain ⟨hop, hzero⟩ := decode_eq_ld_iff.1 (by obtain ⟨sp, ix, rfl⟩ := hld; exact ⟨sp, ix, h⟩)
    rcases decode_eq_ok_iff.1 h with ⟨hz, -⟩ | ⟨-, -, rfl⟩
    · exact absurd hop (formatZ?_eq_some_iff.1 hz).2
    · exact ⟨encode_ld_fields hop hzero, by
        simp [Instr.wellFormed, (spaceField w).isLt, (indexField w).isLt]⟩
  · have hop := opcode_ne_ld fun space index hi => hld ⟨space, index, hi⟩
    rw [(decode_eq_ok_iff_word hop).1 h]
    refine ⟨encode_formatZ hop, ?_⟩
    cases i with
    | ld space index => exact absurd ⟨space, index, rfl⟩ hld
    | _ => rfl

/-- Settles O1: the words are closed terms, which the decoder evaluates. -/
theorem decodeSampleWords : Obligations.DecodeSampleWords := by
  unfold Obligations.DecodeSampleWords
  decide

end Sys2Proof
end

section
/-! SUPPORT. What a turn of each kind is, as an equation, and the ways a step can go (`Move`): a zoom
event, a reset, a turn that passes, a word taken, a stage run. Then the statements about single turns,
about the start of FRAME and RUN, and about the two states that only a reset ends. -/

namespace Sys2Proof.Machine

/-! ### When the block is ready for a word -/

theorem cmdReady_of_idleReady {s : State} (h : s.idleReady) : s.cmdReady = true :=
  (cmdReady_iff s).2 (.inl h)

theorem cmdReady_of_halted {s : State} (h : s.mode = .halted) : s.cmdReady = true :=
  (cmdReady_iff s).2 (.inr h)

/-- A block that waits takes no word (60_exceptions.md R323). -/
theorem cmdReady_of_waiting {s : State} (hw : s.waiting.isSome = true) (hm : s.mode ≠ .halted) :
    s.cmdReady = false := by
  simp [State.cmdReady, State.stuck, hw, hm]

/-- Inside FRAME and RUN no word is taken (40_sequencer.md R143, R146). -/
theorem cmdReady_of_loop {s : State} (hm : s.mode = .frame1 ∨ s.mode = .run) :
    s.cmdReady = false := by
  rcases hm with hm | hm <;> simp [State.cmdReady, hm]

theorem stuck_of_not_waiting {s : State} (hw : s.waiting = none) : s.stuck = false := by
  simp [State.stuck, hw]

/-! ### The sequencer's turn -/

theorem sequencerTurn_takes {s : State} {w : Word} {ws : List Word} (hr : s.cmdReady = true)
    (hw : s.env.cmds = w :: ws) : sequencerTurn s = takeWord w (s.given ws s.env.sched) := by
  rw [sequencerTurn, if_pos hr, hw]
  rfl

theorem sequencerTurn_no_word {s : State} (hr : s.cmdReady = true) (hw : s.env.cmds = []) :
    sequencerTurn s = .next s := by
  rw [sequencerTurn, if_pos hr, hw]

theorem sequencerTurn_waits {s : State} (hw : s.waiting.isSome = true) (hm : s.mode ≠ .halted) :
    sequencerTurn s = .next s := by
  rw [sequencerTurn, if_neg (by simp [cmdReady_of_waiting hw hm]),
    if_pos (show s.stuck = true from hw)]

theorem sequencerTurn_stage {s : State} (hw : s.waiting = none)
    (hm : s.mode = .frame1 ∨ s.mode = .run) : sequencerTurn s = runStage s := by
  rw [sequencerTurn, if_neg (by simp [cmdReady_of_loop hm]), if_neg (by simp [stuck_of_not_waiting hw])]

/-! ### A turn of each kind -/

theorem step_eq_turn {s : State} (hc : s.cfg.Valid) : step s = turn s := by
  rw [step, stepOnce, if_pos hc]

/-- A state with its own words and schedule put back is itself. -/
theorem given_self (s : State) : s.given s.env.cmds s.env.sched = s := rfl

theorem turn_reset {s : State} {r : List Turn} (h : s.env.sched = .reset :: r) :
    turn s = .next (resetStep (s.given s.env.cmds r)) := by
  rw [turn, h]
  rfl

theorem turn_sequencerIsNext {s : State} (h : s.sequencerIsNext) :
    turn s = sequencerTurn (s.given s.env.cmds s.env.sched.tail) := by
  rcases h with h | ⟨r, h⟩ <;> rw [turn, h]
  · conv_lhs => rw [← given_self s, h]
    rfl
  · rfl

/-- A held word is taken in the first turn that finds the block ready (70_reset_and_hazards.md R363). -/
theorem turn_word {s : State} {r : List Turn} (h : s.env.sched = .word :: r) :
    turn s = if s.cmdReady then sequencerTurn (s.given s.env.cmds r) else sequencerTurn s := by
  rw [turn, h]
  rfl

theorem turn_wordIsNext {s : State} (h : s.wordIsNext) (hr : s.cmdReady = true) :
    turn s = sequencerTurn (s.given s.env.cmds s.env.sched.tail) := by
  rcases h with h | ⟨r, h⟩
  · exact turn_sequencerIsNext h
  · rw [turn_word h, if_pos hr, h, List.tail_cons]

theorem turn_answered {s : State} {r : List Turn} (h : s.env.sched = .answered :: r) :
    turn s = if s.cmdReady || s.stuck then .next (s.given s.env.cmds r) else sequencerTurn s := by
  rw [turn, h]
  rfl

theorem turn_stage {s : State} {r : List Turn} (h : s.env.sched = .stage :: r) :
    turn s = if s.cmdReady then .next (s.given s.env.cmds r)
      else sequencerTurn (s.given s.env.cmds r) := by
  rw [turn, h]
  rfl

/-- Settles O6: the turn is the sequencer's, and the block is ready for the word. -/
theorem stepRunsDecodedCommand : Obligations.StepRunsDecodedCommand := by
  unfold Obligations.StepRunsDecodedCommand
  intro s w ws hc hnext hr hw
  have htakes : step s = takeWord w (s.given ws s.env.sched.tail) := by
    rw [step_eq_turn hc, turn_wordIsNext hnext hr]
    exact sequencerTurn_takes (s := s.given s.env.cmds s.env.sched.tail) hr hw
  exact ⟨htakes, fun i hi => htakes.trans (takeWord_of_decode hi _)⟩

/-- Settles O7: each kind of turn by its equation; a stage is run when the block neither is ready for a word
nor waits. -/
theorem stepOfOtherTurns : Obligations.StepOfOtherTurns := by
  unfold Obligations.StepOfOtherTurns
  intro s hc
  rw [step_eq_turn hc]
  refine ⟨fun r h => (step_eq_turn hc).symm.trans (step_zoom hc h), fun r h => turn_reset h,
    fun hnext hr hw => ?noWord, fun hnext hw hm => ?waits, fun hnext hw hm => ?stage,
    fun r h hr => ?word, fun r h => ⟨fun hor => ?answered, fun hw hm => ?answeredStage⟩,
    fun r h => ⟨fun hor => ?passes, fun hw hm => ?insideStage⟩⟩
  case noWord =>
    rw [turn_wordIsNext hnext hr, hw]
    exact sequencerTurn_no_word (s := s.given [] s.env.sched.tail) hr rfl
  case waits =>
    rw [turn_sequencerIsNext hnext]
    exact sequencerTurn_waits (s := s.given _ _) hw hm
  case stage =>
    rw [turn_sequencerIsNext hnext]
    exact sequencerTurn_stage (s := s.given _ _) hw hm
  case word => rw [turn_word h, if_neg (by simp [hr]), sequencerTurn, if_neg (by simp [hr])]; rfl
  case answered => exact (turn_answered h).trans (if_pos (Bool.or_eq_true_iff.2 hor))
  case answeredStage =>
    rw [turn_answered h, cmdReady_of_loop hm, stuck_of_not_waiting hw, sequencerTurn_stage hw hm]
    rfl
  case passes =>
    rw [turn_stage h]
    split
    · rfl
    · next hr =>
      exact sequencerTurn_waits (s := s.given s.env.cmds r) (hor.resolve_left hr)
        fun hm => hr (cmdReady_of_halted hm)
  case insideStage =>
    rw [turn_stage h, cmdReady_of_loop hm]
    exact sequencerTurn_stage (s := s.given _ _) hw hm

/-- What a reset leaves of the outside world: the silence of the collaborators may end, and nothing else
changes (70_reset_and_hazards.md R343, R360). -/
theorem envReset_eq (e : Env) : e.reset = { e with
    capLeft := e.reset.capLeft, xfLeft := e.reset.xfLeft, dispLeft := e.reset.dispLeft
    afterResets := e.reset.afterResets } := by
  unfold Env.reset
  cases e.afterResets <;> rfl

/-- Settles O9: the next state is `resetStep` with that turn taken. -/
theorem resetRestoresEverything : Obligations.ResetRestoresEverything := by
  unfold Obligations.ResetRestoresEverything
  intro s r hc h
  refine ⟨_, (step_eq_turn hc).trans (turn_reset h), cmdReady_of_idleReady ⟨rfl, rfl⟩, rfl, ?_⟩
  rw [resetStep_env, envReset_eq]
  exact ⟨rfl, rfl, rfl, rfl, rfl, rfl⟩

/-- Settles O44: both commands set MODE and SEQ and answer nothing yet. -/
theorem frameAndRunStart : Obligations.FrameAndRunStart := by
  unfold Obligations.FrameAndRunStart
  rintro s ⟨hm, hw⟩
  rw [exec_frame, exec_run, accept_idle hm hw, accept_idle hm hw]
  exact ⟨rfl, rfl⟩

/-! ### The ways a step can go -/

/-- How a step leads from `s` to `t`. In the last three the schedule keeps its head or loses it. -/
inductive Move (s t : State) : Prop
  | zoom (r : List Turn) (hsched : s.env.sched = .zoom :: r)
      (ht : t = zoomStep (s.given s.env.cmds r))
  | reset (r : List Turn) (hsched : s.env.sched = .reset :: r)
      (ht : t = resetStep (s.given s.env.cmds r))
  | passes (r : List Turn) (hzoom : s.env.sched.head? ≠ some .zoom)
      (hreset : s.env.sched.head? ≠ some .reset) (hr : r = s.env.sched ∨ r = s.env.sched.tail)
      (ht : t = s.given s.env.cmds r)
  | takes (w : Word) (ws : List Word) (r : List Turn) (hzoom : s.env.sched.head? ≠ some .zoom)
      (hreset : s.env.sched.head? ≠ some .reset) (hr : r = s.env.sched ∨ r = s.env.sched.tail)
      (hready : s.cmdReady = true) (hcmds : s.env.cmds = w :: ws)
      (ht : takeWord w (s.given ws r) = .next t)
  | stage (r : List Turn) (hzoom : s.env.sched.head? ≠ some .zoom)
      (hreset : s.env.sched.head? ≠ some .reset) (hr : r = s.env.sched ∨ r = s.env.sched.tail)
      (hloop : s.mode = .frame1 ∨ s.mode = .run) (hwaits : s.waiting = none)
      (ht : runStage (s.given s.env.cmds r) = .next t)

/-- Everything a step can do. -/
theorem step_move {s t : State} (h : step s = .next t) : Move s t := by
  obtain ⟨-, h⟩ := step_next h
  rcases turn_next h with ⟨r, hr, ht⟩ | ⟨r, hr, ht⟩ | ⟨u, r, hr, hu, -, ht⟩ | ⟨hz, hreset, r, hr, h⟩
  · exact .zoom r hr ht
  · exact .reset r hr ht
  · refine .passes r ?_ ?_ (.inr (by rw [hr, List.tail_cons])) ht <;> rcases hu with rfl | rfl <;>
      simp [hr]
  · rcases sequencerTurn_next h with ht | ⟨w, ws, hready, hcmds, ht⟩ | ⟨hloop, hwaits, ht⟩
    · exact .passes r hz hreset hr ht
    · exact .takes w ws r hz hreset hr hready hcmds ht
    · exact .stage r hz hreset hr hloop hwaits ht

/-- Settles O12: a halted block takes a word without a fault, or lets the turn pass. -/
theorem onlyResetLeavesHalted : Obligations.OnlyResetLeavesHalted := by
  unfold Obligations.OnlyResetLeavesHalted
  intro s t hm hreset h
  cases step_move h with
  | zoom r _ ht => subst ht; exact ⟨hm, rfl⟩
  | reset r hsched => rw [hsched] at hreset; exact absurd rfl hreset
  | passes r _ _ _ ht => subst ht; exact ⟨hm, rfl⟩
  | takes w ws r _ _ _ _ _ ht =>
    rcases takeWord_halted_answers (s := s.given ws r) hm w with ⟨v, h⟩ | h <;>
      cases h.symm.trans ht <;> exact ⟨hm, rfl⟩
  | stage r _ _ _ hloop => simp [hm] at hloop

/-! ### The responses in a history -/

@[simp] theorem responses_append (h es : List Event) :
    responses (h ++ es) = responses h ++ responses es := List.filter_append _ _

@[simp] theorem withoutResponses_append (h es : List Event) :
    withoutResponses (h ++ es) = withoutResponses h ++ withoutResponses es :=
  List.filter_append _ _

@[simp] theorem responses_respond (a : Status) (d : Word) :
    responses [.respond a d] = [.respond a d] := rfl

@[simp] theorem withoutResponses_respond (a : Status) (d : Word) :
    withoutResponses [.respond a d] = [] := rfl

@[simp] theorem responses_zoomEvent : responses [.zoomEvent] = [] := rfl

/-- Settles O38: a block that waits neither takes a word nor runs a stage. -/
theorem onlyResetEndsWait : Obligations.OnlyResetEndsWait := by
  unfold Obligations.OnlyResetEndsWait
  intro s t hw hm hreset h
  cases step_move h with
  | zoom r hsched ht =>
    rw [ht, hsched]
    exact ⟨rfl, by rw [zoomStep_history, responses_append, responses_zoomEvent, List.append_nil]; rfl⟩
  | reset r hsched => rw [hsched] at hreset; exact absurd rfl hreset
  | passes r hzoom _ _ ht =>
    rw [ht, if_neg hzoom, if_neg hzoom]
    exact ⟨rfl, rfl⟩
  | takes w ws r _ _ _ hready =>
    rw [cmdReady_of_waiting hw hm] at hready
    cases hready
  | stage r _ _ _ _ hwaits =>
    rw [hwaits] at hw
    cases hw

end Sys2Proof.Machine
end

section
/-! SUPPORT. What every rule of a command or a stage leaves alone (`RuleFrame`), what it may have changed
when it raises a fault, and what a stage step does when its rule ends; then the statements about fault
entry, about RUN, about the history, and about zoom events over many steps. -/

namespace Sys2Proof.Machine

/-! ### The frame of a rule -/

/-- An event that a rule records itself: no response, and no trigger event. -/
def Event.fromRule : Event → Prop
  | .respond _ _ | .zoomEvent => False
  | .capDrain | .capStart _ | .capSample _ _ | .xfInit _ _ _ | .xfInitRequest _ | .xfExec _ _ _
  | .xfRelease _ | .disp _ | .flushAnswer _ | .gainSample _ => True

/-- What a rule that takes `s` to `u` leaves alone: the parameters, the control registers, ZOOM_LEVEL, and
the words and turns to come. It may append its own events to the history. -/
structure RuleFrame (s u : State) : Prop where
  control : u = { u with
    cfg := s.cfg, mode := s.mode, seq := s.seq, waiting := s.waiting, fault := s.fault
    zoomLevel := s.zoomLevel
    env := { u.env with sched := s.env.sched, cmds := s.env.cmds } }
  events : ∃ es, u.history = s.history ++ es ∧ ∀ e ∈ es, e.fromRule

/-- A property holds of the state a rule leaves, before it waits. -/
def RuleResult.leaves (P : State → Prop) : RuleResult → Prop
  | .done u => P u
  | .raised _ u => P u
  | .stalled _ u => P u
  | .noValue _ => True

theorem fromRule_of_mem_sampleEvents {k : Nat} {vs : List Byte} {e : Event}
    (h : e ∈ sampleEvents k vs) : e.fromRule := by
  induction vs generalizing k with
  | nil => cases h
  | cons v vs ih =>
    rcases List.mem_cons.1 h with rfl | h
    · trivial
    · exact ih h

theorem responses_of_fromRule {es : List Event} (h : ∀ e ∈ es, e.fromRule) : responses es = [] := by
  refine List.filter_eq_nil_iff.2 fun e he => ?_
  have := h e he
  cases e with
  | respond a d => exact this.elim
  | _ => simp

theorem count_zoomEvent_of_fromRule {es : List Event} (h : ∀ e ∈ es, e.fromRule) :
    es.count .zoomEvent = 0 :=
  List.count_eq_zero.2 fun hmem => h _ hmem

/-- A rule that records nothing. -/
theorem RuleFrame.of_history_eq {s u : State} (h : u.history = s.history)
    (hu : u = { u with
      cfg := s.cfg, mode := s.mode, seq := s.seq, waiting := s.waiting, fault := s.fault
      zoomLevel := s.zoomLevel
      env := { u.env with sched := s.env.sched, cmds := s.env.cmds } }) : RuleFrame s u :=
  ⟨hu, [], by rw [h, List.append_nil], nofun⟩

theorem RuleFrame.refl (s : State) : RuleFrame s s := .of_history_eq rfl rfl

/-- Every rule, however it ends, keeps to its frame. -/
theorem rules_frame {rule : State → RuleResult} (hrule : rule ∈ rules) (s : State) :
    (rule s).leaves (RuleFrame s) := by
  simp only [rules, List.mem_cons, List.not_mem_nil, or_false] at hrule
  rcases hrule with rfl | rfl | rfl | rfl | rfl | rfl | rfl | rfl
  · have hevents (vs : List Byte) :
        ∀ e ∈ Event.capDrain :: .capStart s.cfg.n :: sampleEvents 0 vs, e.fromRule :=
      List.forall_mem_cons.2 ⟨trivial, List.forall_mem_cons.2
        ⟨trivial, fun e => fromRule_of_mem_sampleEvents⟩⟩
    rcases captureStage_cases s with ⟨_, h⟩ | ⟨vals, _, _, _, ⟨h, -⟩ | ⟨h, -⟩⟩ <;> rw [h]
    · exact ⟨rfl, _, rfl, by simp [Event.fromRule]⟩
    · exact ⟨rfl, _, rfl, hevents vals⟩
    · exact ⟨rfl, _, rfl, hevents vals⟩
  · rcases rmdcStage_cases s with ⟨-, h⟩ | ⟨-, -, h⟩ | ⟨_, -, -, h⟩ <;> rw [h]
    · exact .refl s
    · trivial
    · exact .of_history_eq rfl rfl
  · rcases xfexecStage_cases s with ⟨-, h⟩ | ⟨-, -, h⟩ | ⟨-, -, -, h⟩ | ⟨_, _, -, -, -, h⟩ |
      ⟨_, _, _, -, -, -, h⟩ <;> rw [h]
    · exact .refl s
    · exact .refl s
    · trivial
    · exact ⟨rfl, _, rfl, by simp [Event.fromRule]⟩
    · exact ⟨rfl, _, rfl, by simp [Event.fromRule]⟩
  · rcases mapStage_cases s with ⟨-, h⟩ | ⟨-, -, h⟩ | ⟨es, hv, he, -⟩
    · rw [h]; exact .refl s
    · rw [h]; trivial
    · rw [mapStage_eq_mapped hv he]
      refine ⟨?_, _, rfl, ?_⟩
      · unfold State.mapped
        cases s.cfg.gainLive <;> rfl
      · cases s.cfg.gainLive <;> simp [Event.fromRule]
  · rcases renderStage_cases s with ⟨-, h⟩ | ⟨-, h⟩ | ⟨_, _, _, -, -, -, h⟩ |
      ⟨_, _, _, _, -, -, -, h⟩ <;> rw [h]
    · exact .refl s
    · trivial
    · exact ⟨rfl, _, rfl, List.forall_mem_map.2 fun _ _ => trivial⟩
    · exact ⟨rfl, _, rfl, List.forall_mem_map.2 fun _ _ => trivial⟩
  · rcases flushStage_cases s with ⟨-, h⟩ | ⟨_, es, -, hes, h⟩ |
      ⟨_, _, _, _, -, ⟨-, h⟩ | ⟨-, h⟩⟩ <;> rw [h]
    · exact .refl s
    · refine ⟨rfl, es, rfl, ?_⟩
      rcases hes with rfl | rfl <;> simp [Event.fromRule]
    · exact ⟨rfl, _, rfl, by simp [Event.fromRule]⟩
    · exact ⟨rfl, _, rfl, by simp [Event.fromRule]⟩
  · rcases xfinitRule_cases s with ⟨-, h⟩ | ⟨_, -, h⟩ |
      ⟨_, _, _, _, _, -, -, ⟨-, h⟩ | ⟨-, h⟩⟩ <;> rw [h]
    · exact .refl s
    all_goals exact ⟨rfl, _, rfl, by simp [Event.fromRule]⟩
  · rcases xfrelRule_cases s with ⟨-, h⟩ | ⟨_, -, h⟩ | ⟨_, -, h⟩ <;> rw [h]
    · exact .refl s
    all_goals exact ⟨rfl, _, rfl, by simp [Event.fromRule]⟩

section Frame

variable {rule : State → RuleResult} {s u : State}

theorem rules_frame_done (hrule : rule ∈ rules) (h : rule s = .done u) : RuleFrame s u := by
  have := rules_frame hrule s
  rwa [h] at this

theorem rules_frame_raised {c : Cause} (hrule : rule ∈ rules) (h : rule s = .raised c u) :
    RuleFrame s u := by
  have := rules_frame hrule s
  rwa [h] at this

theorem rules_frame_stalled {who : Collaborator} (hrule : rule ∈ rules)
    (h : rule s = .stalled who u) : RuleFrame s u := by
  have := rules_frame hrule s
  rwa [h] at this

theorem RuleFrame.cfg (h : RuleFrame s u) : u.cfg = s.cfg := by rw [h.control]
theorem RuleFrame.mode (h : RuleFrame s u) : u.mode = s.mode := by rw [h.control]
theorem RuleFrame.seq (h : RuleFrame s u) : u.seq = s.seq := by rw [h.control]
theorem RuleFrame.waiting (h : RuleFrame s u) : u.waiting = s.waiting := by rw [h.control]
theorem RuleFrame.fault (h : RuleFrame s u) : u.fault = s.fault := by rw [h.control]
theorem RuleFrame.zoomLevel (h : RuleFrame s u) : u.zoomLevel = s.zoomLevel := by rw [h.control]
theorem RuleFrame.sched (h : RuleFrame s u) : u.env.sched = s.env.sched := by rw [h.control]
theorem RuleFrame.cmds (h : RuleFrame s u) : u.env.cmds = s.env.cmds := by rw [h.control]

/-- A rule sends no response (30_encoding.md R120). -/
theorem RuleFrame.no_responses (h : RuleFrame s u) :
    ∃ es, u.history = s.history ++ es ∧ responses es = [] := by
  obtain ⟨es, hes, hfrom⟩ := h.events
  exact ⟨es, hes, responses_of_fromRule hfrom⟩

theorem RuleFrame.responses_eq (h : RuleFrame s u) :
    responses u.history = responses s.history := by
  obtain ⟨es, hes, hnone⟩ := h.no_responses
  rw [hes, responses_append, hnone, List.append_nil]

end Frame

/-! ### A rule that raises a fault -/

/-- Fault entry is precise: a rule checks before it writes; only a failed flush has written DEV
(60_exceptions.md R318). -/
theorem rules_raised {rule : State → RuleResult} (hrule : rule ∈ rules) {s u : State} {c : Cause}
    (h : rule s = .raised c u) :
    u = { s with dev := u.dev, history := u.history, env := u.env } ∧
      (c ≠ .dispfail → u.dev = s.dev) := by
  simp only [rules, List.mem_cons, List.not_mem_nil, or_false] at hrule
  rcases hrule with rfl | rfl | rfl | rfl | rfl | rfl | rfl | rfl
  · rcases captureStage_cases s with ⟨_, h'⟩ | ⟨_, _, _, _, ⟨h', -⟩ | ⟨h', -⟩⟩ <;>
      cases h.symm.trans h'
  · rcases rmdcStage_cases s with ⟨-, h'⟩ | ⟨-, -, h'⟩ | ⟨_, -, -, h'⟩ <;> cases h.symm.trans h'
    exact ⟨rfl, fun _ => rfl⟩
  · rcases xfexecStage_cases s with ⟨-, h'⟩ | ⟨-, -, h'⟩ | ⟨-, -, -, h'⟩ | ⟨_, _, -, -, -, h'⟩ |
      ⟨_, _, _, -, -, -, h'⟩ <;> cases h.symm.trans h' <;> exact ⟨rfl, fun _ => rfl⟩
  · rcases mapStage_cases s with ⟨-, h'⟩ | ⟨-, -, h'⟩ | ⟨_, -, -, h'⟩ <;> cases h.symm.trans h'
    exact ⟨rfl, fun _ => rfl⟩
  · rcases renderStage_cases s with ⟨-, h'⟩ | ⟨-, h'⟩ | ⟨_, _, _, -, -, -, h'⟩ |
      ⟨_, _, _, _, -, -, -, h'⟩ <;> cases h.symm.trans h'
    exact ⟨rfl, fun _ => rfl⟩
  · rcases flushStage_cases s with ⟨-, h'⟩ | ⟨_, _, -, -, h'⟩ |
      ⟨_, _, _, _, -, ⟨-, h'⟩ | ⟨-, h'⟩⟩ <;> cases h.symm.trans h'
    · exact ⟨rfl, fun _ => rfl⟩
    · exact ⟨rfl, fun hne => absurd rfl hne⟩
  · rcases xfinitRule_cases s with ⟨-, h'⟩ | ⟨_, -, h'⟩ |
      ⟨_, _, _, _, _, -, -, ⟨-, h'⟩ | ⟨-, h'⟩⟩ <;> cases h.symm.trans h' <;>
      exact ⟨rfl, fun _ => rfl⟩
  · rcases xfrelRule_cases s with ⟨-, h'⟩ | ⟨_, -, h'⟩ | ⟨_, -, h'⟩ <;> cases h.symm.trans h'
    exact ⟨rfl, fun _ => rfl⟩

/-! ### A completed stage -/

theorem advanceStage_of_ne_flush {u : State} (h : u.seq ≠ .flush) :
    advanceStage u = { u with seq := u.seq.succ } := by
  unfold advanceStage
  cases hq : u.seq with
  | flush => exact absurd hq h
  | _ => rfl

theorem advanceStage_flush_frame {u : State} (h : u.seq = .flush) (hm : u.mode = .frame1) :
    advanceStage u = (u.startLoop .idle).respond .ok 0#32 := by
  unfold advanceStage
  rw [h, hm]

theorem advanceStage_flush_run {u : State} (h : u.seq = .flush) (hm : u.mode = .run) :
    advanceStage u = u.startLoop .run := by
  unfold advanceStage
  rw [h, hm]

/-- A stage of RUN is followed by the next one, with no response (40_sequencer.md R146). -/
theorem advanceStage_run {u : State} (hm : u.mode = .run) :
    ∃ q, advanceStage u = { u with seq := q } := by
  by_cases h : u.seq = .flush
  · exact ⟨.capture, by rw [advanceStage_flush_run h hm, ← hm]; rfl⟩
  · exact ⟨_, advanceStage_of_ne_flush h⟩

/-- A completed stage moves SEQ on; the last stage of a FRAME ends it with its one response. -/
theorem advanceStage_cases {u : State} (hm : u.mode = .frame1 ∨ u.mode = .run) :
    (∃ q, advanceStage u = { u with seq := q }) ∨
      advanceStage u = (u.startLoop .idle).respond .ok 0#32 := by
  rcases hm with hm | hm
  · by_cases h : u.seq = .flush
    · exact .inr (advanceStage_flush_frame h hm)
    · exact .inl ⟨_, advanceStage_of_ne_flush h⟩
  · exact .inl (advanceStage_run hm)

/-! ### Fault entry -/

/-- Fault entry after a rule that has changed nothing but DEV, the history and the outside world. -/
theorem takeFault_precise {s u : State} {c : Cause} {op : BitVec 8} {st : BitVec 3}
    (hu : u = { s with dev := u.dev, history := u.history, env := u.env })
    (hdev : c ≠ .dispfail → u.dev = s.dev)
    (hevents : ∃ es, u.history = s.history ++ es ∧ responses es = []) :
    takeFault c op st u = { s with
      mode := .halted, fault := (takeFault c op st u).fault, dev := (takeFault c op st u).dev
      history := (takeFault c op st u).history, env := (takeFault c op st u).env } ∧
    ((takeFault c op st u).fault.code ≠ 7#4 → (takeFault c op st u).dev = s.dev) ∧
    ∃ es, (takeFault c op st u).history = s.history ++ es ∧
      responses es = [.respond .fault (takeFault c op st u).fault.word] := by
  refine ⟨by rw [hu]; rfl, fun hcode => hdev fun hc => hcode (by rw [hc]; rfl), ?_⟩
  obtain ⟨es, hes, hnone⟩ := hevents
  exact ⟨es ++ [.respond .fault (FaultReg.word ⟨c.code, op, st⟩)],
    by rw [takeFault_history, hes, List.append_assoc], by rw [responses_append, hnone]; rfl⟩

/-- Settles O36: a step that enters HALTED is fault entry, at once or after a rule that raised. -/
theorem faultsArePrecise : Obligations.FaultsArePrecise := by
  unfold Obligations.FaultsArePrecise
  intro s t hm h ht
  cases step_move h with
  | zoom r _ hzoom => rw [hzoom] at ht; exact absurd ht hm
  | reset r _ hreset => rw [hreset] at ht; cases ht
  | passes r _ _ _ hpass => rw [hpass] at ht; exact absurd ht hm
  | takes w ws r _ _ _ hready _ htakes =>
    rcases takeWord_next (s := s.given ws r) hready htakes with ⟨_, _, rfl⟩ |
      ⟨-, -, ⟨c, op, st, rfl⟩ | ⟨m, hloop, rfl⟩ | ⟨rule, hrule, ⟨u, hu, rfl⟩ |
        ⟨c, op, st, u, hu, rfl⟩ | ⟨who, u, hu, rfl⟩⟩⟩
    · exact absurd ht hm
    · exact takeFault_precise rfl (fun _ => rfl) ⟨[], (List.append_nil _).symm, rfl⟩
    · rcases hloop with rfl | rfl <;> cases ht
    · exact absurd ((rules_frame_done hrule hu).mode.symm.trans ht) hm
    · obtain ⟨hprecise, hdev⟩ := rules_raised hrule hu
      exact takeFault_precise hprecise hdev (rules_frame_raised hrule hu).no_responses
    · exact absurd ((rules_frame_stalled hrule hu).mode.symm.trans ht) hm
  | stage r _ _ _ hloop _ hstage =>
    have hmem := stageRule_mem (s.given s.env.cmds r).seq
    rcases runStage_next hstage with ⟨u, hu, rfl⟩ | ⟨c, u, hu, rfl⟩ | ⟨who, u, hu, rfl⟩
    · have hmode := (rules_frame_done hmem hu).mode
      rcases advanceStage_cases (u := u) (by rwa [hmode]) with ⟨q, hq⟩ | hq <;> rw [hq] at ht
      · exact absurd (hmode.symm.trans ht) hm
      · cases ht
    · obtain ⟨hprecise, hdev⟩ := rules_raised hmem hu
      exact takeFault_precise hprecise hdev (rules_frame_raised hmem hu).no_responses
    · exact absurd ((rules_frame_stalled hmem hu).mode.symm.trans ht) hm

/-! ### Faults inside FRAME and RUN -/

/-- A stage whose input is valid raises NOINIT or DISPFAIL only (40_sequencer.md R147). -/
theorem stageRule_raised_of_loopReady {s u : State} {c : Cause} (hready : s.loopReady)
    (hm : s.mode = .frame1 ∨ s.mode = .run) (hw : s.waiting = none)
    (h : stageRule s.seq s = .raised c u) :
    (c = .noinit ∧ s.seq = .xfexec) ∨ (c = .dispfail ∧ s.seq = .flush) := by
  have hinput := hready hm hw
  cases hq : s.seq <;> rw [hq] at h hinput <;> simp only [stageRule] at h hinput
  case capture =>
    rcases captureStage_cases s with ⟨_, h'⟩ | ⟨_, _, _, _, ⟨h', -⟩ | ⟨h', -⟩⟩ <;>
      cases h.symm.trans h'
  case rmdc =>
    rcases rmdcStage_cases s with ⟨hne, -⟩ | ⟨-, -, h'⟩ | ⟨_, -, -, h'⟩
    · exact absurd (of_decide_eq_true hinput) hne
    all_goals cases h.symm.trans h'
  case xfexec =>
    rcases xfexecStage_cases s with ⟨-, h'⟩ | ⟨-, hne, -⟩ | ⟨-, -, -, h'⟩ | ⟨_, _, -, -, -, h'⟩ |
      ⟨_, _, _, -, -, -, h'⟩
    · cases h.symm.trans h'
      exact .inl ⟨rfl, rfl⟩
    · exact absurd (of_decide_eq_true hinput) hne
    all_goals cases h.symm.trans h'
  case map =>
    rcases mapStage_cases s with ⟨hne, -⟩ | ⟨-, -, h'⟩ | ⟨_, -, -, h'⟩
    · exact absurd (of_decide_eq_true hinput) hne
    all_goals cases h.symm.trans h'
  case render =>
    rcases renderStage_cases s with ⟨hne, -⟩ | ⟨-, h'⟩ | ⟨_, _, _, -, -, -, h'⟩ |
      ⟨_, _, _, _, -, -, -, h'⟩
    · rw [hinput] at hne; cases hne
    all_goals cases h.symm.trans h'
  case flush =>
    rcases flushStage_cases s with ⟨hne, -⟩ | ⟨_, _, -, -, h'⟩ |
      ⟨_, _, _, _, -, ⟨-, h'⟩ | ⟨-, h'⟩⟩
    · rw [hinput] at hne; cases hne
    · cases h.symm.trans h'
    · cases h.symm.trans h'
    · cases h.symm.trans h'
      exact .inr ⟨rfl, rfl⟩

/-- Settles O47: a step that halts is a stage whose rule raised, and `stageRule_raised_of_loopReady` names
the stage and the cause. -/
theorem faultsInsideFrame : Obligations.FaultsInsideFrame := by
  unfold Obligations.FaultsInsideFrame
  intro s t hready hloop hw h ht
  have hm : s.mode ≠ .halted := by rcases hloop with h | h <;> rw [h] <;> decide
  cases step_move h with
  | zoom r _ hzoom => rw [hzoom] at ht; exact absurd ht hm
  | reset r _ hreset => rw [hreset] at ht; cases ht
  | passes r _ _ _ hpass => rw [hpass] at ht; exact absurd ht hm
  | takes w ws r _ _ _ hr => rw [cmdReady_of_loop hloop] at hr; cases hr
  | stage r _ _ _ _ _ hstage =>
    have hmem := stageRule_mem (s.given s.env.cmds r).seq
    rcases runStage_next hstage with ⟨u, hu, rfl⟩ | ⟨c, u, hu, rfl⟩ | ⟨who, u, hu, rfl⟩
    · have hmode := (rules_frame_done hmem hu).mode
      rcases advanceStage_cases (u := u) (by rwa [hmode]) with ⟨q, hq⟩ | hq <;> rw [hq] at ht
      · exact absurd (hmode.symm.trans ht) hm
      · cases ht
    · rcases stageRule_raised_of_loopReady (s := s.given s.env.cmds r) hready hloop hw hu with
        ⟨rfl, hq⟩ | ⟨rfl, hq⟩ <;> rw [takeFault_fault, hq]
      · exact .inl ⟨rfl, rfl⟩
      · exact .inr ⟨rfl, rfl⟩
    · exact absurd ((rules_frame_stalled hmem hu).mode.symm.trans ht) hm

/-- Settles O48: in RUN a stage completes and the next one follows, waits, or raises under RUN's opcode. -/
theorem runNeverCompletes : Obligations.RunNeverCompletes := by
  unfold Obligations.RunNeverCompletes
  intro s t hm hreset h
  cases step_move h with
  | zoom r _ ht =>
    refine .inl ⟨ht ▸ hm, ht ▸ cmdReady_of_loop (.inr hm), ?_⟩
    rw [ht, zoomStep_history, responses_append, responses_zoomEvent, List.append_nil]
    rfl
  | reset r hsched => rw [hsched] at hreset; exact absurd rfl hreset
  | passes r _ _ _ ht => exact .inl ⟨ht ▸ hm, ht ▸ cmdReady_of_loop (.inr hm), ht ▸ rfl⟩
  | takes w ws r _ _ _ hready => rw [cmdReady_of_loop (.inr hm)] at hready; cases hready
  | stage r _ _ _ _ _ hstage =>
    have hmem := stageRule_mem (s.given s.env.cmds r).seq
    rcases runStage_next hstage with ⟨u, hu, rfl⟩ | ⟨c, u, hu, rfl⟩ | ⟨who, u, hu, rfl⟩
    · have hf := rules_frame_done hmem hu
      have hmode : u.mode = .run := hf.mode.trans hm
      obtain ⟨q, hq⟩ := advanceStage_run hmode
      rw [hq]
      exact .inl ⟨hmode, cmdReady_of_loop (.inr hmode), hf.responses_eq⟩
    · have hf := rules_frame_raised hmem hu
      refine .inr ⟨rfl, ?_, rfl, ?_⟩
      · rw [takeFault_fault, State.given, State.withEnv_mode, hm]
        rfl
      · rw [takeFault_history, responses_append, hf.responses_eq]
        rfl
    · have hf := rules_frame_stalled hmem hu
      have hmode : (u.waitFor who).mode = .run := hf.mode.trans hm
      exact .inl ⟨hmode, cmdReady_of_loop (.inr hmode), hf.responses_eq⟩

/-! ### The history over one step and over many -/

/-- What the sequencer does in one turn: it appends to the history, at most one response and no trigger
event, and leaves the parameters and the turns to come alone. -/
structure SequencerFrame (s t : State) : Prop where
  cfg : t.cfg = s.cfg
  sched : t.env.sched = s.env.sched
  zoomLevel : t.zoomLevel = s.zoomLevel
  events : ∃ es, t.history = s.history ++ es ∧ (responses es).length ≤ 1 ∧
    es.count .zoomEvent = 0

/-- A rule followed by at most one response. -/
theorem RuleFrame.sequencerFrame {s u t : State} (h : RuleFrame s u) (hcfg : t.cfg = u.cfg)
    (hsched : t.env.sched = u.env.sched) (hzoom : t.zoomLevel = u.zoomLevel)
    (hhistory : t.history = u.history ∨ ∃ a d, t.history = u.history ++ [.respond a d]) :
    SequencerFrame s t := by
  refine ⟨hcfg.trans h.cfg, hsched.trans h.sched, hzoom.trans h.zoomLevel, ?_⟩
  obtain ⟨es, hes, hfrom⟩ := h.events
  have hnone := responses_of_fromRule hfrom
  have hcount := count_zoomEvent_of_fromRule hfrom
  rcases hhistory with ht | ⟨a, d, ht⟩
  · exact ⟨es, ht.trans hes, by simp [hnone], hcount⟩
  · exact ⟨es ++ [.respond a d], by rw [ht, hes, List.append_assoc], by simp [hnone],
      by simp [hcount]⟩

theorem takeWord_frame {w : Word} {s t : State} (hr : s.cmdReady = true)
    (h : takeWord w s = .next t) : SequencerFrame s t := by
  rcases takeWord_next hr h with ⟨_, _, rfl⟩ | ⟨-, -, ⟨_, _, _, rfl⟩ | ⟨_, -, rfl⟩ |
    ⟨rule, hrule, ⟨u, hu, rfl⟩ | ⟨_, _, _, u, hu, rfl⟩ | ⟨_, u, hu, rfl⟩⟩⟩
  · exact (RuleFrame.refl s).sequencerFrame rfl rfl rfl (.inr ⟨_, _, rfl⟩)
  · exact (RuleFrame.refl s).sequencerFrame rfl rfl rfl (.inr ⟨_, _, rfl⟩)
  · exact (RuleFrame.refl s).sequencerFrame rfl rfl rfl (.inl rfl)
  · exact (rules_frame_done hrule hu).sequencerFrame rfl rfl rfl (.inr ⟨_, _, rfl⟩)
  · exact (rules_frame_raised hrule hu).sequencerFrame rfl rfl rfl (.inr ⟨_, _, rfl⟩)
  · exact (rules_frame_stalled hrule hu).sequencerFrame rfl rfl rfl (.inl rfl)

theorem runStage_frame {s t : State} (hm : s.mode = .frame1 ∨ s.mode = .run)
    (h : runStage s = .next t) : SequencerFrame s t := by
  have hmem := stageRule_mem s.seq
  rcases runStage_next h with ⟨u, hu, rfl⟩ | ⟨_, u, hu, rfl⟩ | ⟨_, u, hu, rfl⟩
  · have hf := rules_frame_done hmem hu
    rcases advanceStage_cases (u := u) (by rwa [hf.mode]) with ⟨q, hq⟩ | hq <;> rw [hq]
    · exact hf.sequencerFrame rfl rfl rfl (.inl rfl)
    · exact hf.sequencerFrame rfl rfl rfl (.inr ⟨_, _, rfl⟩)
  · exact (rules_frame_raised hmem hu).sequencerFrame rfl rfl rfl (.inr ⟨_, _, rfl⟩)
  · exact (rules_frame_stalled hmem hu).sequencerFrame rfl rfl rfl (.inl rfl)

/-- A step that is neither a zoom event nor a reset is a turn of the sequencer, or passes. -/
theorem step_frame {s t : State} (hzoom : s.env.sched.head? ≠ some .zoom)
    (hreset : s.env.sched.head? ≠ some .reset) (h : step s = .next t) :
    ∃ r, (r = s.env.sched ∨ r = s.env.sched.tail) ∧ ∃ ws, SequencerFrame (s.given ws r) t := by
  cases step_move h with
  | zoom r hsched => rw [hsched] at hzoom; exact absurd rfl hzoom
  | reset r hsched => rw [hsched] at hreset; exact absurd rfl hreset
  | passes r _ _ hr ht =>
    rw [ht]
    exact ⟨r, hr, s.env.cmds, (RuleFrame.refl _).sequencerFrame rfl rfl rfl (.inl rfl)⟩
  | takes w ws r _ _ hr hready _ ht => exact ⟨r, hr, ws, takeWord_frame hready ht⟩
  | stage r _ _ hr hloop _ ht => exact ⟨r, hr, _, runStage_frame hloop ht⟩

theorem step_of_zoom {s t : State} {r : List Turn} (hr : s.env.sched = .zoom :: r)
    (h : step s = .next t) : t = zoomStep (s.given s.env.cmds r) :=
  Host.Outcome.next.inj (h.symm.trans (step_zoom (step_next h).1 hr))

theorem step_of_reset {s t : State} {r : List Turn} (hr : s.env.sched = .reset :: r)
    (h : step s = .next t) : t = resetStep (s.given s.env.cmds r) := by
  have hc := (step_next h).1
  exact Host.Outcome.next.inj (h.symm.trans ((step_eq_turn hc).trans (turn_reset hr)))

/-- The head of a list is the element named, or another one, or none. -/
theorem head_cases (sched : List Turn) :
    (∃ r, sched = .zoom :: r) ∨ (∃ r, sched = .reset :: r) ∨
      (sched.head? ≠ some .zoom ∧ sched.head? ≠ some .reset) := by
  rcases sched with _ | ⟨u, r⟩
  · exact .inr (.inr ⟨nofun, nofun⟩)
  · cases u with
    | zoom => exact .inl ⟨r, rfl⟩
    | reset => exact .inr (.inl ⟨r, rfl⟩)
    | _ => exact .inr (.inr ⟨nofun, nofun⟩)

/-- Settles O59: a zoom event adds itself, a reset nothing, and the sequencer's turn at most one
response. -/
theorem historyOnlyGrows : Obligations.HistoryOnlyGrows := by
  unfold Obligations.HistoryOnlyGrows
  intro s t h
  rcases head_cases s.env.sched with ⟨r, hr⟩ | ⟨r, hr⟩ | ⟨hzoom, hreset⟩
  · rw [step_of_zoom hr h]
    exact ⟨rfl, [.zoomEvent], rfl, Nat.zero_le 1⟩
  · rw [step_of_reset hr h]
    exact ⟨rfl, [], (List.append_nil _).symm, Nat.zero_le 1⟩
  · obtain ⟨r, -, ws, hf⟩ := step_frame hzoom hreset h
    obtain ⟨es, hes, hlen, -⟩ := hf.events
    exact ⟨hf.cfg, es, hes, hlen⟩

/-- One step without a reset: the trigger event it takes off the schedule, if any, is recorded and steps
the level (46_zoom.md R251). -/
theorem step_counts_zooms {s t : State} (hreset : Turn.reset ∉ s.env.sched)
    (h : step s = .next t) :
    t.cfg = s.cfg ∧ Turn.reset ∉ t.env.sched ∧ ∃ es, t.history = s.history ++ es ∧
      s.env.sched.count .zoom = es.count .zoomEvent + t.env.sched.count .zoom ∧
      (s.zoomLevel.toNat < s.cfg.levels →
        t.zoomLevel.toNat = (s.zoomLevel.toNat + es.count .zoomEvent) % s.cfg.levels) := by
  rcases head_cases s.env.sched with ⟨r, hr⟩ | ⟨r, hr⟩ | ⟨hzoom, hhead⟩
  · rw [step_of_zoom hr h]
    rw [hr] at hreset ⊢
    refine ⟨rfl, fun hmem => hreset (List.mem_cons_of_mem _ hmem), [.zoomEvent], rfl, ?_, fun _ => ?_⟩
    · rw [List.count_cons_self, Nat.add_comm]
      rfl
    · exact zoomNext_toNat (step_next h).1 s.zoomLevel
  · rw [hr] at hreset
    exact absurd List.mem_cons_self hreset
  · obtain ⟨r, hr, ws, hf⟩ := step_frame hzoom hhead h
    obtain ⟨es, hes, -, hcount⟩ := hf.events
    have hsched : t.env.sched = r := hf.sched
    have hsub : r ⊆ s.env.sched := by
      rcases hr with rfl | rfl
      · exact List.Subset.refl _
      · exact List.tail_subset _
    have hsame : s.env.sched.count .zoom = r.count .zoom := by
      rcases hr with rfl | rfl
      · rfl
      · cases hs : s.env.sched with
        | nil => rfl
        | cons u r =>
          rw [hs] at hzoom
          exact List.count_cons_of_ne fun hu => hzoom (congrArg some hu)
    refine ⟨hf.cfg, fun hmem => hreset (hsub (hsched ▸ hmem)), es, hes, ?_, fun hlevel => ?_⟩
    · rw [hcount, hsched, hsame, Nat.zero_add]
    · rw [hcount, Nat.add_zero, Nat.mod_eq_of_lt hlevel]
      exact congrArg BitVec.toNat hf.zoomLevel

/-- Settles O52, by induction on the number of steps: each step counts its own event. -/
theorem everyZoomEventCountsOnce : Obligations.EveryZoomEventCountsOnce := by
  unfold Obligations.EveryZoomEventCountsOnce
  intro n
  induction n with
  | zero =>
    intro s t hlevel _ h
    cases h
    exact ⟨[], (List.append_nil _).symm, (Nat.zero_add _).symm, (Nat.mod_eq_of_lt hlevel).symm⟩
  | succ n ih =>
    intro s t hlevel hreset h
    cases hu : step s with
    | next u =>
      rw [stepN, hu] at h
      obtain ⟨hcfg, hreset', es, hes, hcount, hstep⟩ := step_counts_zooms hreset hu
      have hzoom := hstep hlevel
      have hlevel' : u.zoomLevel.toNat < u.cfg.levels := by
        rw [hzoom, hcfg]
        exact Nat.mod_lt _ (by omega)
      obtain ⟨es', hes', hcount', hlevels⟩ := ih u t hlevel' hreset' h
      refine ⟨es ++ es', by rw [hes', hes, List.append_assoc], ?_, ?_⟩
      · rw [hcount, hcount', List.count_append, Nat.add_assoc]
      · rw [hlevels, hzoom, hcfg, Nat.mod_add_mod, List.count_append, Nat.add_assoc]
    | fault f => rw [stepN, hu] at h; cases h
    | refused r => rw [stepN, hu] at h; cases h

end Sys2Proof.Machine
end

section
/-! SUPPORT. The label string digit by digit, the fields of a display beat, the pixels that RENDER's
requests set and where they lie, and the bitmap they leave (47_renderer.md, 20_memory.md R90, R91); then
the four statements. -/

namespace Sys2Proof.Machine

/-! ### Decimal digits -/

/-- The number that a list of decimal digits writes, most significant first. -/
def ofDecimal (ds : List Nat) : Nat := ds.foldl (fun acc d => 10 * acc + d) 0

@[simp] theorem ofDecimal_append_singleton (ds : List Nat) (d : Nat) :
    ofDecimal (ds ++ [d]) = 10 * ofDecimal ds + d := by
  simp [ofDecimal]

theorem digitsWith_of_lt {v : Nat} (fuel : Nat) (h : v < 10) : digitsWith (fuel + 1) v = [v] := by
  rw [digitsWith, if_pos h]

theorem digitsWith_of_le {v : Nat} (fuel : Nat) (h : 10 ≤ v) :
    digitsWith (fuel + 1) v = digitsWith fuel (v / 10) ++ [v % 10] := by
  rw [digitsWith, if_neg (by omega)]

theorem digitsWith_ne_nil (fuel v : Nat) : digitsWith (fuel + 1) v ≠ [] := by
  by_cases h : v < 10
  · simp [digitsWith_of_lt fuel h]
  · simp [digitsWith_of_le fuel (not_lt.1 h)]

theorem digitsWith_le_nine {fuel v d : Nat} (hd : d ∈ digitsWith fuel v) : d ≤ 9 := by
  induction fuel generalizing v with
  | zero => simp [digitsWith] at hd
  | succ fuel ih =>
    by_cases h : v < 10
    · rw [digitsWith_of_lt fuel h, List.mem_singleton] at hd
      omega
    · rw [digitsWith_of_le fuel (not_lt.1 h), List.mem_append, List.mem_singleton] at hd
      rcases hd with hd | rfl
      · exact ih hd
      · omega

/-- With fuel for all of them, the digits write the number. -/
theorem ofDecimal_digitsWith {fuel v : Nat} (hv : v < 10 ^ fuel) :
    ofDecimal (digitsWith fuel v) = v := by
  induction fuel generalizing v with
  | zero =>
    obtain rfl : v = 0 := by omega
    rfl
  | succ fuel ih =>
    by_cases h : v < 10
    · simp [digitsWith_of_lt fuel h, ofDecimal]
    · have hdiv : v / 10 < 10 ^ fuel := Nat.div_lt_of_lt_mul (by rwa [← pow_succ'])
      rw [digitsWith_of_le fuel (not_lt.1 h), ofDecimal_append_singleton, ih hdiv]
      omega

/-- A number has at most as many digits as the power of ten above it. -/
theorem digitsWith_length_le {fuel v k : Nat} (hk : 1 ≤ k) (hv : v < 10 ^ k) :
    (digitsWith fuel v).length ≤ k := by
  induction fuel generalizing v k with
  | zero => exact Nat.zero_le k
  | succ fuel ih =>
    by_cases h : v < 10
    · rwa [digitsWith_of_lt fuel h]
    · have hk' : 2 ≤ k := by
        by_contra hlt
        obtain rfl : k = 1 := by omega
        omega
      have hdiv : v / 10 < 10 ^ (k - 1) :=
        Nat.div_lt_of_lt_mul (by rwa [← pow_succ', Nat.sub_add_cancel hk])
      have := ih (by omega) hdiv
      rw [digitsWith_of_le fuel (not_lt.1 h), List.length_append, List.length_singleton]
      omega

/-- No leading zero: the number that the digits before the last one write is not 0. -/
theorem digitsWith_head {fuel v : Nat} (hv : v < 10 ^ fuel)
    (hhead : (digitsWith fuel v).head? = some 0) : digitsWith fuel v = [0] := by
  induction fuel generalizing v with
  | zero => cases hhead
  | succ fuel ih =>
    by_cases h : v < 10
    · rw [digitsWith_of_lt fuel h] at hhead ⊢
      cases hhead
      rfl
    · exfalso
      have hdiv : v / 10 < 10 ^ fuel := Nat.div_lt_of_lt_mul (by rwa [← pow_succ'])
      have hvalue := ofDecimal_digitsWith hdiv
      have hnil : digitsWith fuel (v / 10) ≠ [] := by
        intro hnil
        rw [hnil] at hvalue
        exact absurd hvalue (by simp [ofDecimal]; omega)
      rw [digitsWith_of_le fuel (not_lt.1 h), List.head?_append_of_ne_nil _ hnil] at hhead
      rw [ih hdiv hhead] at hvalue
      exact absurd hvalue (by simp [ofDecimal]; omega)

theorem labelString_length (v : BitVec 16) :
    (labelString v).length = (digitsWith 5 v.toNat).length + 1 := by
  simp [labelString]

/-- A label of a valid record has one to three digits before its "k" (R233, R271). -/
theorem labelString_length_bounds {v : BitVec 16} (hv : v.toNat ≤ 524) :
    2 ≤ (labelString v).length ∧ (labelString v).length ≤ 4 := by
  have hpos : 0 < (digitsWith 5 v.toNat).length :=
    List.length_pos_of_ne_nil (digitsWith_ne_nil 4 v.toNat)
  have hle : (digitsWith 5 v.toNat).length ≤ 3 := digitsWith_length_le (by decide) (by omega)
  rw [labelString_length]
  omega

/-- Settles O29: the digits are those of `digitsWith`, for which five places are enough. -/
theorem labelStringIsDecimal : Obligations.LabelStringIsDecimal := by
  unfold Obligations.LabelStringIsDecimal
  intro v
  have hv : v.toNat < 10 ^ 5 := by have := v.isLt; omega
  exact ⟨digitsWith 5 v.toNat, rfl, digitsWith_ne_nil 4 _, fun d => digitsWith_le_nine,
    ofDecimal_digitsWith hv, digitsWith_head hv, labelString_length_bounds⟩

/-! ### The display port -/

/-- Character `k` of a string is in byte `k` of `disp_text`; a byte beyond its end is 0 (R90). -/
theorem packText_byte (str : List Byte) {k : Nat} (hk : k < 4) :
    (packText str).extractLsb' (8 * k) 8 = str.getD k 0#8 := by
  induction k generalizing str with
  | zero =>
    cases str with
    | nil => rfl
    | cons ch r =>
      ext i hi
      have : i < 32 := by omega
      simp [packText, hi, this, ← BitVec.getLsbD_eq_getElem]
  | succ k ih =>
    cases str with
    | nil => simp [packText]
    | cons ch r =>
      rw [List.getD_cons_succ, ← ih r (by omega)]
      ext i hi
      have hbit : 8 * (k + 1) + i < 32 := by omega
      have hnext : ¬ 8 * (k + 1) + i < 8 := by omega
      have hshift : 8 * (k + 1) + i - 8 = 8 * k + i := by omega
      have hch : ch.getLsbD (8 * (k + 1) + i) = false := BitVec.getLsbD_of_ge _ _ (by omega)
      simp [packText, hbit, hnext, hshift, hch, ← BitVec.getLsbD_eq_getElem]

/-- Settles O30: coordinates, scale and length fit their fields; the characters are `packText_byte`. -/
theorem displayPortFields : Obligations.DisplayPortFields := by
  unfold Obligations.DisplayPortFields
  refine ⟨rfl, rfl, fun x y hx hy => ?_, fun x y sc str hx hy hsc hlen => ?_⟩
  · exact ⟨rfl, toNat_ofNat_of_lt (width := 8) hx, toNat_ofNat_of_lt (width := 8) hy, rfl, rfl, rfl⟩
  · exact ⟨rfl, toNat_ofNat_of_lt (width := 8) hx, toNat_ofNat_of_lt (width := 8) hy,
      toNat_ofNat_of_lt (width := 4) hsc, toNat_ofNat_of_lt (width := 3) (by omega),
      fun k => packText_byte str⟩

/-! ### Which pixels RENDER sets -/

theorem setPx_mem_hGuides {c : Config} {x y : Nat} :
    .setPx x y ∈ hGuides c ↔
      (x < c.wPx ∧ y < c.barH) ∧ y % c.gridY = 0 ∧ x % c.dot = 0 := by
  simp only [hGuides, List.mem_flatMap, List.mem_map, List.mem_filter, List.mem_range,
    decide_eq_true_eq, DispReq.setPx.injEq]
  constructor
  · rintro ⟨_, ⟨hy, hgrid⟩, _, ⟨hx, hdot⟩, rfl, rfl⟩
    exact ⟨⟨hx, hy⟩, hgrid, hdot⟩
  · rintro ⟨⟨hx, hy⟩, hgrid, hdot⟩
    exact ⟨y, ⟨hy, hgrid⟩, x, ⟨hx, hdot⟩, rfl, rfl⟩

theorem setPx_mem_vTicks {c : Config} {x y : Nat} :
    .setPx x y ∈ vTicks c ↔
      (x < c.wPx ∧ y < c.barH) ∧ x % c.gridX = 0 ∧ y % c.dot = 0 := by
  simp only [vTicks, List.mem_flatMap, List.mem_map, List.mem_filter, List.mem_range,
    decide_eq_true_eq, DispReq.setPx.injEq]
  constructor
  · rintro ⟨_, ⟨hx, hgrid⟩, _, ⟨hy, hdot⟩, rfl, rfl⟩
    exact ⟨⟨hx, hy⟩, hgrid, hdot⟩
  · rintro ⟨⟨hx, hy⟩, hgrid, hdot⟩
    exact ⟨x, ⟨hx, hgrid⟩, y, ⟨hy, hdot⟩, rfl, rfl⟩

theorem setPx_mem_borders {c : Config} {x y : Nat} :
    .setPx x y ∈ borders c ↔ y < c.barH ∧ (x = 0 ∨ x = c.wPx - 1) := by
  simp only [borders, List.mem_append, List.mem_map, List.mem_range, DispReq.setPx.injEq]
  constructor
  · rintro (⟨_, hy, rfl, rfl⟩ | ⟨_, hy, rfl, rfl⟩)
    · exact ⟨hy, .inl rfl⟩
    · exact ⟨hy, .inr rfl⟩
  · rintro ⟨hy, rfl | rfl⟩
    · exact .inl ⟨y, hy, rfl, rfl⟩
    · exact .inr ⟨y, hy, rfl, rfl⟩

/-- A bar sets pixels of its own column, from the bottom of the bar area up (R265). -/
theorem setPx_mem_barRequests {c : Config} {x' x y : Nat} {h : BitVec 5} :
    .setPx x y ∈ barRequests c x' h ↔ x' = x ∧ ∃ t, t < h.toNat ∧ c.barH - (t + 1) = y := by
  simp only [barRequests, List.mem_map, List.mem_range, DispReq.setPx.injEq]
  constructor
  · rintro ⟨t, ht, rfl, rfl⟩
    exact ⟨rfl, t, ht, rfl⟩
  · rintro ⟨rfl, t, ht, rfl⟩
    exact ⟨t, ht, rfl, rfl⟩

theorem setPx_mem_barsFrom {c : Config} {k x y : Nat} {hs : List (BitVec 5)} :
    .setPx x y ∈ barsFrom c k hs ↔
      ∃ i h, hs[i]? = some h ∧ x = k + i ∧ ∃ t, t < h.toNat ∧ c.barH - (t + 1) = y := by
  induction hs generalizing k with
  | nil => simp [barsFrom]
  | cons h hs ih =>
    rw [barsFrom, List.mem_append, setPx_mem_barRequests, ih]
    constructor
    · rintro (⟨rfl, hbar⟩ | ⟨i, h', hi, rfl, hbar⟩)
      · exact ⟨0, h, rfl, rfl, hbar⟩
      · exact ⟨i + 1, h', hi, by omega, hbar⟩
    · rintro ⟨i, h', hi, rfl, hbar⟩
      cases i with
      | zero =>
        cases hi
        exact .inl ⟨rfl, hbar⟩
      | succ i => exact .inr ⟨i, h', hi, by omega, hbar⟩

/-- The pixels that RENDER sets between the clear and the labels. -/
theorem setPx_mem_pixelRequests {c : Config} {x y : Nat} {hs : List (BitVec 5)} :
    .setPx x y ∈ pixelRequests c hs ↔
      ((x < c.wPx ∧ y < c.barH) ∧ y % c.gridY = 0 ∧ x % c.dot = 0) ∨
      ((x < c.wPx ∧ y < c.barH) ∧ x % c.gridX = 0 ∧ y % c.dot = 0) ∨
      (∃ h, hs[x]? = some h ∧ ∃ t, t < h.toNat ∧ c.barH - (t + 1) = y) ∨
      (y < c.barH ∧ (x = 0 ∨ x = c.wPx - 1)) := by
  have hbars : .setPx x y ∈ barsFrom c 0 hs ↔
      ∃ h, hs[x]? = some h ∧ ∃ t, t < h.toNat ∧ c.barH - (t + 1) = y := by
    simp [setPx_mem_barsFrom]
  simp only [pixelRequests, List.mem_append, setPx_mem_hGuides, setPx_mem_vTicks, hbars,
    setPx_mem_borders, or_assoc]

/-! ### Where the requests lie -/

/-- What a valid record says of the bitmap: the bar area and the labels below it fit, and so do the
columns (00_scope.md section 4). -/
theorem bitmap_of_valid {c : Config} (hc : c.Valid) :
    (1 ≤ c.wPx ∧ c.wPx ≤ 255) ∧ (1 ≤ c.barH ∧ c.barH < c.hPx) ∧ c.wCols ≤ c.wPx ∧
      c.barH + c.charH * c.textScale ≤ c.hPx := by
  obtain ⟨-, -, -, ⟨hw, hw'⟩, ⟨hh, -⟩, ⟨-, hcols⟩, ⟨hbar, -⟩, -, -, -, -, -, -, -, -, -, -, -, hch,
    hts, -⟩ := hc
  have hpos : 0 < c.charH * c.textScale := Nat.mul_pos hch hts
  exact ⟨⟨by omega, hw'⟩, ⟨hbar, by omega⟩, hcols, hh⟩

/-- Every pixel RENDER sets lies in the bar area (R275). -/
theorem setPx_bounds {c : Config} (hc : c.Valid) {hs : List (BitVec 5)} (hlen : hs.length = c.wCols)
    {x y : Nat} (h : .setPx x y ∈ pixelRequests c hs) : x < c.wPx ∧ y < c.barH := by
  obtain ⟨⟨hw, -⟩, ⟨hbar, -⟩, hcols, -⟩ := bitmap_of_valid hc
  rcases setPx_mem_pixelRequests.1 h with ⟨hin, -⟩ | ⟨hin, -⟩ | ⟨_, hx, t, -, rfl⟩ | ⟨hy, hx⟩
  · exact hin
  · exact hin
  · obtain ⟨hx, -⟩ := List.getElem?_eq_some_iff.1 hx
    omega
  · omega

/-- A string of at most four characters fits the width of the bitmap (00_scope.md section 4). -/
theorem text_width_le {c : Config} (hc : c.Valid) {n : Nat} (hn : n ≤ 4) :
    n * c.charW * c.textScale ≤ c.wPx := by
  obtain ⟨-, -, -, -, -, -, -, -, -, -, -, -, -, -, -, -, -, ⟨-, hchar⟩, -⟩ := hc
  exact (Nat.mul_le_mul_right _ (Nat.mul_le_mul_right _ hn)).trans hchar

/-- The clamp keeps a label inside the bitmap (R273). -/
theorem labelX_add_width_le {c : Config} (hc : c.Valid) (j : Nat) {str : List Byte}
    (hlen : str.length ≤ 4) : labelX c j str + str.length * c.charW * c.textScale ≤ c.wPx := by
  have hwidth := text_width_le hc hlen
  rw [labelX]
  omega

theorem mem_labelsFrom {c : Config} {k : Nat} {vs : List (BitVec 16)} {r : DispReq}
    (h : r ∈ labelsFrom c k vs) : ∃ j, ∃ v ∈ vs, r = labelRequest c j v := by
  induction vs generalizing k with
  | nil => cases h
  | cons v vs ih =>
    rcases List.mem_cons.1 h with rfl | h
    · exact ⟨k, v, List.mem_cons_self, rfl⟩
    · obtain ⟨j, v', hv', rfl⟩ := ih h
      exact ⟨j, v', List.mem_cons_of_mem _ hv', rfl⟩

/-- Settles O28: a request is the clear, a pixel of the bar area, or a label, which the clamp keeps in the
bitmap. -/
theorem requestsInsideBitmap : Obligations.RequestsInsideBitmap := by
  unfold Obligations.RequestsInsideBitmap
  intro c hs ls hc hlen _ hls r hr
  obtain ⟨⟨hw, hw'⟩, ⟨-, hbar⟩, -, htext⟩ := bitmap_of_valid hc
  rw [renderRequests_eq_pixels, List.mem_append, List.mem_append, List.mem_singleton] at hr
  rcases hr with (rfl | hpixel) | hlabel
  · trivial
  · obtain ⟨x, y, rfl⟩ := pixelRequests_isPixel c hs r hpixel
    obtain ⟨hx, hy⟩ := setPx_bounds hc hlen hpixel
    exact ⟨hx, by omega, hy, by omega⟩
  · obtain ⟨j, v, hv, rfl⟩ := mem_labelsFrom hlabel
    obtain ⟨hmin, hmax⟩ := labelString_length_bounds (hls v hv)
    exact ⟨labelX_add_width_le hc j hmax, rfl, htext, hmin, hmax⟩

/-! ### What the requests leave in DF -/

/-- Two pixels of the bitmap have two indices (20_memory.md R80). -/
theorem pixelIndex_inj {c : Config} {x y x' y' : Nat} (hx : x < c.wPx) (hx' : x' < c.wPx)
    (h : pixelIndex c x y = pixelIndex c x' y') : x = x' ∧ y = y' := by
  unfold pixelIndex at h
  have hmod := congrArg (· % c.wPx) h
  simp only [Nat.mul_add_mod_of_lt hx, Nat.mul_add_mod_of_lt hx'] at hmod
  subst hmod
  exact ⟨rfl, Nat.eq_of_mul_eq_mul_right (Nat.zero_lt_of_lt hx) (Nat.add_right_cancel h)⟩

theorem pixelIndex_lt {c : Config} {x y : Nat} (hx : x < c.wPx) (hy : y < c.hPx) :
    pixelIndex c x y < c.pixels :=
  calc y * c.wPx + x < y * c.wPx + c.wPx := by omega
    _ = (y + 1) * c.wPx := by ring
    _ ≤ c.hPx * c.wPx := Nat.mul_le_mul_right _ hy
    _ = c.pixels := Nat.mul_comm _ _

/-- The labels leave DF as it is (R91). -/
theorem drawAll_pixels_of_labels (c : Config) (f : Frame) (k : Nat) (vs : List (BitVec 16)) :
    (drawAll c f (labelsFrom c k vs)).pixels = f.pixels := by
  induction vs generalizing f k with
  | nil => rfl
  | cons v vs ih => exact ih _ _

theorem drawAll_setPx_cons (c : Config) (f : Frame) (x y : Nat) (reqs : List DispReq) :
    drawAll c f (.setPx x y :: reqs) =
      drawAll c { f with pixels := memWrite f.pixels (pixelIndex c x y) 1#1 } reqs := rfl

section Pixels

variable {c : Config} {reqs : List DispReq} (h : ∀ r ∈ reqs, r.IsPixel)

include h

/-- A pixel that is set stays set until the next clear (R91). -/
theorem memRead_drawAll_of_read {f : Frame} {i : Nat} (hi : memRead f.pixels i = some 1#1) :
    memRead (drawAll c f reqs).pixels i = some 1#1 := by
  induction reqs generalizing f with
  | nil => exact hi
  | cons r reqs ih =>
    rw [List.forall_mem_cons] at h
    obtain ⟨⟨x, y, rfl⟩, hreqs⟩ := h
    rw [drawAll_setPx_cons]
    refine ih hreqs ?_
    by_cases heq : i = pixelIndex c x y
    · rw [heq, memRead_memWrite_same]
    · rw [memRead_memWrite_other _ _ _ _ heq, hi]

theorem memRead_drawAll_of_mem (f : Frame) {x y : Nat} (hmem : .setPx x y ∈ reqs) :
    memRead (drawAll c f reqs).pixels (pixelIndex c x y) = some 1#1 := by
  induction reqs generalizing f with
  | nil => cases hmem
  | cons r reqs ih =>
    rw [List.forall_mem_cons] at h
    obtain ⟨⟨x', y', rfl⟩, hreqs⟩ := h
    rw [drawAll_setPx_cons]
    rcases List.mem_cons.1 hmem with heq | hmem
    · cases heq
      exact memRead_drawAll_of_read hreqs (memRead_memWrite_same _ _ _)
    · exact ih hreqs _ hmem

theorem memRead_drawAll_of_not_mem (f : Frame) {i : Nat}
    (hi : ∀ x y, .setPx x y ∈ reqs → i ≠ pixelIndex c x y) :
    memRead (drawAll c f reqs).pixels i = memRead f.pixels i := by
  induction reqs generalizing f with
  | nil => rfl
  | cons r reqs ih =>
    rw [List.forall_mem_cons] at h
    obtain ⟨⟨x, y, rfl⟩, hreqs⟩ := h
    rw [drawAll_setPx_cons, ih hreqs _ fun x' y' hmem => hi x' y' (List.mem_cons_of_mem _ hmem),
      memRead_memWrite_other _ _ _ _ (hi x y List.mem_cons_self)]

end Pixels

/-- The picture of a RENDER, but for its labels: the clear, then the pixels. -/
theorem renderRequests_pixels (c : Config) (f : Frame) (hs : List (BitVec 5))
    (ls : List (BitVec 16)) :
    (drawAll c f (renderRequests c hs ls)).pixels =
      (drawAll c (drawRequest c f .clear) (pixelRequests c hs)).pixels := by
  rw [renderRequests_eq_pixels, drawAll_append, drawAll_append, drawAll_pixels_of_labels]
  rfl

/-- The bitmap RENDER leaves: dark, but for the pixels it sets. -/
theorem memRead_renderRequests {c : Config} (hc : c.Valid) (f : Frame) {hs : List (BitVec 5)}
    (hlen : hs.length = c.wCols) (ls : List (BitVec 16)) {x y : Nat} (hx : x < c.wPx)
    (hy : y < c.hPx) :
    memRead (drawAll c f (renderRequests c hs ls)).pixels (pixelIndex c x y) =
      some (if .setPx x y ∈ pixelRequests c hs then 1#1 else 0#1) := by
  rw [renderRequests_pixels]
  split
  · next hmem => exact memRead_drawAll_of_mem (pixelRequests_isPixel c hs) _ hmem
  · next hmem =>
    rw [memRead_drawAll_of_not_mem (pixelRequests_isPixel c hs), drawRequest, memRead_memOfList,
      List.getElem?_replicate, if_pos (pixelIndex_lt hx hy)]
    intro x' y' hmem' hi
    obtain ⟨rfl, rfl⟩ := pixelIndex_inj hx (setPx_bounds hc hlen hmem').1 hi
    exact hmem hmem'

/-- A bar of height `h` is the `h` lowest rows of the bar area (R265). -/
theorem exists_bar_row_iff {barH h y : Nat} (hle : h ≤ barH) :
    (∃ t, t < h ∧ barH - (t + 1) = y) ↔ y < barH ∧ barH - h ≤ y := by
  constructor
  · rintro ⟨t, ht, rfl⟩
    omega
  · rintro ⟨hy, hrow⟩
    exact ⟨barH - 1 - y, by omega, by omega⟩

/-- Settles O26: the pixels set are those of the guidelines, the ticks, the bars and the borders. -/
theorem renderedBitmap : Obligations.RenderedBitmap := by
  unfold Obligations.RenderedBitmap
  intro s h l hs hc hcol hh hl ha
  have hheights := memReadRange_of_read fun x hx => (hh x hx).1
  refine ⟨_, exec_render_idle hs hcol hheights (memReadRange_of_read hl) ha, rfl,
    fun x y hx hy => ?_⟩
  have hread := memRead_renderRequests hc ⟨s.df, s.txt⟩ (hs := (List.range s.cfg.wCols).map h)
    (by simp) ((List.range s.cfg.nlbl).map l) hx hy
  have hbar : (∃ v, ((List.range s.cfg.wCols).map h)[x]? = some v ∧
        ∃ t, t < v.toNat ∧ s.cfg.barH - (t + 1) = y) ↔
      y < s.cfg.barH ∧ x < s.cfg.wCols ∧ s.cfg.barH - (h x).toNat ≤ y := by
    by_cases hcols : x < s.cfg.wCols
    · simp [exists_bar_row_iff (hh x hcols).2, hcols]
    · simp [hcols]
  refine hread.trans (congrArg some (if_congr ?_ rfl rfl))
  rw [setPx_mem_pixelRequests, hbar]
  constructor
  · rintro (⟨⟨-, hy⟩, h⟩ | ⟨⟨-, hy⟩, h⟩ | ⟨hy, h⟩ | ⟨hy, h⟩)
    · exact ⟨hy, .inl h⟩
    · exact ⟨hy, .inr (.inl h)⟩
    · exact ⟨hy, .inr (.inr (.inl h))⟩
    · exact ⟨hy, .inr (.inr (.inr h))⟩
  · rintro ⟨hy, h | h | h | h⟩
    · exact .inl ⟨⟨hx, hy⟩, h⟩
    · exact .inr (.inl ⟨⟨hx, hy⟩, h⟩)
    · exact .inr (.inr (.inl ⟨hy, h⟩))
    · exact .inr (.inr (.inr ⟨hy, h⟩))

end Sys2Proof.Machine
end

section
/-! SUPPORT. The range and the sum of what RMDC leaves in CS (42_dc_removal.md R176 to R178), the range of the
bin indices (45_bin_to_pixel.md R229, R230), what two MAPs have in common, and stages on an invalid
input; then the six statements. -/

namespace Sys2Proof.Machine

/-! ### CS -/

theorem sampleSum_append (xs ys : List Byte) :
    sampleSum (xs ++ ys) = sampleSum xs + sampleSum ys := by
  simp [sampleSum_eq_sum]

theorem sampleSum_cons (x : Byte) (xs : List Byte) :
    sampleSum (x :: xs) = x.toNat + sampleSum xs := by
  simp [sampleSum_eq_sum]

theorem sampleSum_replicate (n : Nat) (x : Byte) :
    sampleSum (List.replicate n x) = n * x.toNat := by
  simp [sampleSum_eq_sum]

/-- The other samples add between 0 and 255 each to a sample's own share of the sum (R173). -/
theorem sampleSum_bounds_of_mem {xs : List Byte} {x : Byte} (hx : x ∈ xs) :
    x.toNat ≤ sampleSum xs ∧ sampleSum xs ≤ x.toNat + 255 * (xs.length - 1) := by
  obtain ⟨l, r, rfl⟩ := List.append_of_mem hx
  have hl := sampleSum_le l
  have hr := sampleSum_le r
  rw [sampleSum_append, sampleSum_cons, List.length_append, List.length_cons]
  omega

/-- The largest deviation from the mean, `255 * (N - 1)`, on either side (R176). -/
theorem centre_bounds_of_mem {c : Config} {xs : List Byte} (hlen : xs.length = c.n) {x : Byte}
    (hx : x ∈ xs) :
    -(255 * ((c.n : Int) - 1)) ≤ centre c (sampleSum xs) x ∧
      centre c (sampleSum xs) x ≤ 255 * ((c.n : Int) - 1) := by
  obtain ⟨hlow, hhigh⟩ := sampleSum_bounds_of_mem hx
  have hbyte : x.toNat ≤ 255 := Nat.le_of_lt_succ x.isLt
  have hn := n_pos c
  obtain ⟨m, hm⟩ : ∃ m, c.n = m + 1 := ⟨c.n - 1, by omega⟩
  have hprod : m * x.toNat ≤ 255 * m := by
    rw [Nat.mul_comm 255]
    exact Nat.mul_le_mul_left m hbyte
  rw [hlen, hm, Nat.add_sub_cancel] at hhigh
  rw [centre_eq, hm]
  push_cast
  have hsplit : ((m : Int) + 1) * x.toNat = (m * x.toNat : Nat) + x.toNat := by push_cast; ring
  rw [hsplit]
  omega

/-- CS_W bits hold every deviation (R177). -/
theorem centre_signedIn_of_mem {c : Config} {xs : List Byte} (hlen : xs.length = c.n) {x : Byte}
    (hx : x ∈ xs) : signedIn c.csW (centre c (sampleSum xs) x) := by
  obtain ⟨hlow, hhigh⟩ := centre_bounds_of_mem hlen hx
  have hwidth : (255 * c.n : Int) < 2 ^ (8 + c.logN) := by exact_mod_cast largest_sum_lt c
  have hcsW : c.csW - 1 = 8 + c.logN := by rw [Config.csW]; omega
  rw [signedIn, hcsW]
  omega

/-- The deviations from the mean add up to 0 (R178). -/
theorem sum_map_centre (c : Config) (m : Nat) (xs : List Byte) :
    (xs.map (centre c m)).sum = (c.n : Int) * sampleSum xs - xs.length * m := by
  induction xs with
  | nil => simp [sampleSum]
  | cons x xs ih =>
    rw [List.map_cons, List.sum_cons, ih, centre_eq, sampleSum_cons, List.length_cons]
    push_cast
    ring

/-- A deviation is read at the index of its sample. -/
theorem State.centred_cs_read_some {s : State} {xs : List Byte} {k : Nat} {v : Int}
    (h : memRead (s.centred xs).cs k = some v) :
    ∃ x ∈ xs, v = centre s.cfg (sampleSum xs) x := by
  rw [State.centred, memRead_memOfList, List.getElem?_map, Option.map_eq_some_iff] at h
  obtain ⟨x, hx, rfl⟩ := h
  exact ⟨x, List.mem_of_getElem? hx, rfl⟩

/-- Settles O16: CS holds the deviations of the samples from their mean, which `sum_map_centre` and
`centre_bounds_of_mem` speak of. -/
theorem centredSumZeroAndRange : Obligations.CentredSumZeroAndRange := by
  unfold Obligations.CentredSumZeroAndRange
  refine ⟨fun s xs hs _ hv hlen hread => ?_, fun c => ?_⟩
  · have hr := memReadRange_eq_some.2 ⟨hlen, hread⟩
    refine ⟨_, exec_rmdc_idle hs hv hr, ?_, fun k v hk => ?_, ?_⟩
    · rw [State.respond_cs, State.centred, memOfList_map_snd, sum_map_centre, hlen]
      exact sub_self _
    · obtain ⟨x, hx, rfl⟩ := State.centred_cs_read_some hk
      obtain ⟨hlow, hhigh⟩ := centre_bounds_of_mem hlen hx
      exact ⟨hlow, hhigh, centre_signedIn_of_mem hlen hx⟩
    · rintro x rfl
      have hsum := sampleSum_replicate s.cfg.n x
      refine ⟨hsum, hsum, fun k hk => ?_⟩
      rw [State.respond_cs, State.centred_cs_read, List.getElem?_replicate, if_pos hk, hsum]
      simp
  · have hn := n_pos c
    rw [meanOf_eq, meanOf_eq, centre_eq, centre_eq, sampleSum_cons, sampleSum_cons,
      sampleSum_replicate, sampleSum_replicate]
    constructor
    · simp
      ring
    · simp [Nat.cast_sub hn]
      ring

/-! ### Bin indices -/

theorem binIndex_zero (c : Config) (m : Nat) : binIndex c m 0 = 0 := by simp [binIndex]

/-- The bin indices rise with the column (R230). -/
theorem binIndex_mono (c : Config) (m : Nat) {x y : Nat} (h : x ≤ y) :
    binIndex c m x ≤ binIndex c m y :=
  Nat.div_le_div_right (Nat.mul_le_mul_left m h)

/-- The last bin below the bound is selected when there is a column for each bin (R229). -/
theorem exists_binIndex_eq_iff {c : Config} {m : Nat} (hm : 0 < m) (hw : 0 < c.wCols) :
    (∃ x, x < c.wCols ∧ binIndex c m x = m - 1) ↔ m ≤ c.wCols := by
  obtain ⟨k, rfl⟩ : ∃ k, m = k + 1 := ⟨m - 1, by omega⟩
  obtain ⟨w, hw⟩ : ∃ w, c.wCols = w + 1 := ⟨c.wCols - 1, by omega⟩
  have hlast : (k + 1) * w = k * (w + 1) + w - k := by
    have : (k + 1) * w + k = k * (w + 1) + w := by ring
    omega
  have hreach : k ≤ binIndex c (k + 1) w ↔ k ≤ w := by
    rw [binIndex, hw, Nat.le_div_iff_mul_le (show 0 < w + 1 by omega), hlast]
    have hle : k ≤ k * (w + 1) := Nat.le_mul_of_pos_right k (by omega)
    omega
  constructor
  · rintro ⟨x, hx, hi⟩
    have := binIndex_mono c (k + 1) (show x ≤ w by omega)
    have := hreach.1 (by omega)
    omega
  · intro hle
    have hlt := binIndex_lt (c := c) hm (show w < c.wCols by omega)
    have := hreach.2 (by omega)
    exact ⟨w, by omega, by omega⟩

theorem zoomMax_bounds_of_valid {c : Config} (hc : c.Valid) {m : Nat} (hm : m ∈ c.zoomMax) :
    0 < m ∧ m ≤ c.n / 2 := by
  obtain ⟨-, -, -, -, -, -, -, -, hzoom, -⟩ := hc
  exact hzoom m hm

theorem wCols_pos_of_valid {c : Config} (hc : c.Valid) : 0 < c.wCols := by
  obtain ⟨-, -, -, -, -, ⟨hcols, -⟩, -⟩ := hc
  exact hcols

/-- Profile B's last column stays below the Nyquist bin at level 0, and the other levels are lower. -/
theorem profileB_binIndex_lt {m x : Nat} (hm : m ∈ Config.profileB.zoomMax) (hx : x < 127) :
    binIndex Config.profileB m x + 1 < 512 := by
  have hmono := binIndex_mono Config.profileB m (Nat.le_of_lt_succ hx)
  have hlast : ∀ m ∈ Config.profileB.zoomMax, binIndex Config.profileB m 126 + 1 < 512 := by decide
  exact (Nat.succ_le_succ hmono).trans_lt (hlast m hm)

/-- Settles O19: a bin index is below the level's bound, and the last column reaches the last bin when
there are columns enough. -/
theorem binIndexRange : Obligations.BinIndexRange := by
  unfold Obligations.BinIndexRange
  refine ⟨fun c m x hc hm hx => ?_, fun c m hc hm => ?_, by decide,
    fun m x => profileB_binIndex_lt, fun x hx => binIndex_lt (by decide) hx, by decide⟩
  · obtain ⟨hpos, hle⟩ := zoomMax_bounds_of_valid hc hm
    have hlt := binIndex_lt hpos hx
    rw [Config.nb]
    omega
  · obtain ⟨hpos, -⟩ := zoomMax_bounds_of_valid hc hm
    exact ⟨exists_binIndex_eq_iff hpos (wCols_pos_of_valid hc), binIndex_zero c m,
      fun x y => binIndex_mono c m⟩

/-! ### MAP -/

/-- A MAP on valid bins that answers has read every window. -/
theorem exec_map_next {s t : State} (hs : s.idleReady) (hv : s.binCnt = s.cfg.nb)
    (h : exec .map s = .next t) :
    ∃ es, columnEnergies s.cfg s.binRe s.binIm (s.cfg.zoomAt s.zoomLevel.toNat) = some es ∧
      t = (s.mapped es).respond .ok 0#32 := by
  cases he : columnEnergies s.cfg s.binRe s.binIm (s.cfg.zoomAt s.zoomLevel.toNat) with
  | some es => exact ⟨es, rfl, Host.Outcome.next.inj (h.symm.trans (exec_map_idle hs hv he))⟩
  | none =>
    obtain ⟨hm, hw⟩ := hs
    rcases mapStage_cases s with ⟨hne, -⟩ | ⟨-, -, hstage⟩ | ⟨_, -, hsome, -⟩
    · exact absurd hv hne
    · rw [exec_map, runCommand, accept_idle hm hw, hstage] at h
      cases h
    · cases he.symm.trans hsome

/-- The heights of a MAP are those of the gain it leaves in GAIN_LATCH: the reading in live mode, and of
no effect in fixed mode (R213, R227). -/
theorem State.mapped_colH (s : State) (es : List Nat) :
    (s.mapped es).colH = memOfList
      (es.map (fun e => BitVec.ofNat 5 (height s.cfg (s.mapped es).gainLatch e))) := by
  simp only [State.mapped, height_of_latched]

theorem scale_mono {c : Config} {g g' : BitVec 16} {e e' : Nat} (he : e ≤ e')
    (hg : divisor c g' ≤ divisor c g) : scale c g e ≤ scale c g' e' := by
  unfold scale
  exact Nat.div_le_div (Nat.div_le_div_right (Nat.mul_le_mul_right _ he)) hg (divisor_pos c g').ne'

/-- A larger energy and a smaller divisor never lower a height (R217). -/
theorem height_mono {c : Config} {g g' : BitVec 16} {e e' : Nat} (he : e ≤ e')
    (hg : divisor c g' ≤ divisor c g) : height c g e ≤ height c g' e' := by
  rw [height_eq_min, height_eq_min]
  exact min_le_min_right _ (scale_mono he hg)

theorem divisor_mono (c : Config) {g g' : BitVec 16} (h : g.toNat ≤ g'.toNat) :
    divisor c g ≤ divisor c g' := by
  unfold divisor
  split <;> omega

/-- A height fits its 5 bits (R216). -/
theorem ofNat_height_toNat {c : Config} (hc : c.Valid) (g : BitVec 16) (e : Nat) :
    (BitVec.ofNat 5 (height c g e)).toNat = height c g e :=
  toNat_ofNat_of_lt ((height_le_barH c g e).trans_lt (barH_lt_of_valid hc))

/-- Settles O22: the two MAPs read the same energies, and their heights differ in the divisor alone. -/
theorem heightMonotone : Obligations.HeightMonotone := by
  unfold Obligations.HeightMonotone
  refine ⟨fun c g e e' he => height_mono he le_rfl, ?_⟩
  intro s₁ s₂ t₁ t₂ hs₁ hs₂ hc hcfg _ hzoom hv₁ hv₂ hre him h₁ h₂ hgain x b₁ b₂ hx₁ hx₂
  obtain ⟨es, he, rfl⟩ := exec_map_next hs₁ hv₁ h₁
  obtain ⟨es', he', rfl⟩ := exec_map_next hs₂ hv₂ h₂
  rw [← hcfg, ← hre, ← him, ← hzoom, he] at he'
  cases he'
  rw [State.respond_colH, State.mapped_colH, memRead_memOfList, List.getElem?_map,
    Option.map_eq_some_iff] at hx₁ hx₂
  obtain ⟨e, hx, rfl⟩ := hx₁
  obtain ⟨e', hx', rfl⟩ := hx₂
  obtain rfl : e = e' := Option.some.inj (hx.symm.trans hx')
  rw [← hcfg, ofNat_height_toNat hc, ofNat_height_toNat hc]
  exact height_mono le_rfl (divisor_mono _ hgain)

/-- Settles O25: bins and labels are computed from the level alone, heights from the energies and the
gain left in GAIN_LATCH. -/
theorem frequencyMappingIgnoresGain : Obligations.FrequencyMappingIgnoresGain := by
  unfold Obligations.FrequencyMappingIgnoresGain
  intro s₁ s₂ t₁ t₂ hs₁ hs₂ hcfg hzoom hv₁ hv₂ h₁ h₂
  obtain ⟨es, he, rfl⟩ := exec_map_next hs₁ hv₁ h₁
  obtain ⟨es', he', rfl⟩ := exec_map_next hs₂ hv₂ h₂
  rw [← hcfg, ← hzoom] at he'
  refine ⟨?_, ?_, fun hre him hgain => ?_⟩
  · simp only [State.respond_colBin, State.mapped, hcfg, hzoom]
  · simp only [State.respond_lbl, State.mapped, hcfg, hzoom]
  · rw [← hre, ← him, he] at he'
    cases he'
    rw [State.respond_gainLatch, State.respond_gainLatch] at hgain
    rw [State.respond_colH, State.respond_colH, State.mapped_colH, State.mapped_colH, hgain, hcfg]

theorem height_zero (c : Config) (g : BitVec 16) : height c g 0 = 0 := by
  simp [height, clamp, scale]

/-- A window of zero bins has no energy (R211). -/
theorem windowEnergyOf_zero (c : Config) (i : Nat) :
    windowEnergyOf c (fun _ => 0) (fun _ => 0) i = 0 := by
  simp [windowEnergyOf, energyOf]

/-- On zero bins every column's energy is 0. -/
theorem columnEnergies_of_zero {c : Config} (hc : c.Valid) {l : Nat} (hl : l < c.levels)
    {binRe binIm : Mem Int}
    (h : ∀ k, k < c.nb → memRead binRe k = some 0 ∧ memRead binIm k = some 0) :
    columnEnergies c binRe binIm (c.zoomAt l) = some (List.replicate c.wCols 0) := by
  obtain ⟨hpos, hle⟩ := zoomAt_bounds_of_valid hc hl
  rw [columnEnergies_of_read (re := fun _ => 0) (im := fun _ => 0) h hpos hle,
    funext (windowEnergyOf_zero c)]
  simp [columnBins, Function.comp_def]

/-- A MAP whose energies are 0 leaves heights of 0 (R218). -/
theorem State.mapped_zero_colH_read (s : State) {x : Nat} (hx : x < s.cfg.wCols) :
    memRead (s.mapped (List.replicate s.cfg.wCols 0)).colH x = some 0#5 := by
  simp [State.mapped, height_zero, hx]

/-- Settles O23: no window has energy, and the height of 0 is 0. -/
theorem zeroBinsGiveZeroHeights : Obligations.ZeroBinsGiveZeroHeights := by
  unfold Obligations.ZeroBinsGiveZeroHeights
  intro s hs hc hl hv hread
  exact ⟨_, exec_map_idle hs hv (columnEnergies_of_zero hc hl hread),
    fun x hx => s.mapped_zero_colH_read hx⟩

/-! ### A stage on an invalid input -/

theorem rmdcStage_seq {s : State} (hv : s.sbCnt ≠ s.cfg.n) : rmdcStage s = .raised .seq s := by
  simp [rmdcStage, State.sbValid, hv]

theorem mapStage_seq {s : State} (hv : s.binCnt ≠ s.cfg.nb) : mapStage s = .raised .seq s := by
  simp [mapStage, State.binsValid, hv]

theorem renderStage_seq {s : State} (hv : s.colValid = false) :
    renderStage s = .raised .seq s := by
  simp [renderStage, hv]

/-- Settles O34: each rule checks its input first and raises on the state it was given. -/
theorem stageOutOfSequenceFaults : Obligations.StageOutOfSequenceFaults := by
  unfold Obligations.StageOutOfSequenceFaults
  rintro s ⟨hm, hw⟩
  refine ⟨fun hv => ?rmdc, fun hv => ?map, fun hv => ?render, fun hv => ?flush⟩
  case rmdc => rw [exec_rmdc, runCommand_raised hm hw (rmdcStage_seq hv)]; rfl
  case map => rw [exec_map, runCommand_raised hm hw (mapStage_seq hv)]; rfl
  case render => rw [exec_render, runCommand_raised hm hw (renderStage_seq hv)]; rfl
  case flush => rw [exec_flush, runCommand_raised hm hw (flushStage_seq hv)]; rfl

end Sys2Proof.Machine
end

section
/-! SUPPORT. What a rule does to the registers and the buffer spaces (`Effect`), said once for all rules, and the
invariants of the state derived from it; progress from the invariants; then the statements about
invariants. -/

namespace Sys2Proof.Machine

/-! ### The effect of a rule on the data -/

/-- What a rule leaves of the registers and the buffer spaces. `full` says that it did not stop short on a
silent collaborator. -/
inductive Effect (full : Bool) (s : State) : State → Prop
  | nothing (dev : Option Frame) (h : List Event) (e : Env) :
      Effect full s { s with dev := dev, history := h, env := e }
  | handle (ready : Bool) (handle : BitVec 32) (hwidth : handle.toNat < 2 ^ s.cfg.handleW)
      (hready : ready = false → handle = 0#32) (h : List Event) (e : Env) :
      Effect full s { s with xfReady := ready, xfHandle := handle, history := h, env := e }
  | samples (vals : List Byte) (hlen : vals.length ≤ s.cfg.n)
      (hfull : full = true → vals.length = s.cfg.n) (h : List Event) (e : Env) :
      Effect full s { s.clearSb with
        sb := memOfList vals, sbCnt := vals.length, history := h, env := e }
  | centred (xs : List Byte) (hvalid : s.sbCnt = s.cfg.n)
      (hread : memReadRange s.sb s.cfg.n = some xs) : Effect full s (s.centred xs)
  | bins (v : List Int) (got : List (Int × Int)) (hgot : got <+: transform s.cfg v)
      (hfull : full = true → got.length = s.cfg.nb) (h : List Event) (e : Env) :
      Effect full s { s.clearBins with
        binRe := memOfList (got.map Prod.fst), binIm := memOfList (got.map Prod.snd)
        binCnt := got.length, history := h, env := e }
  | mapped (es : List Nat) (hvalid : s.binCnt = s.cfg.nb)
      (hread : columnEnergies s.cfg s.binRe s.binIm (s.cfg.zoomAt s.zoomLevel.toNat) = some es) :
      Effect full s (s.mapped es)
  | rendered (hs : List (BitVec 5)) (ls : List (BitVec 16)) (reqs : List DispReq) (valid : Bool)
      (hhs : hs.length = s.cfg.wCols) (hls : ls.length = s.cfg.nlbl)
      (hreqs : reqs <+: renderRequests s.cfg hs ls)
      (hvalid : valid = true → reqs = renderRequests s.cfg hs ls) (h : List Event) (e : Env) :
      Effect full s { s with
        dfValid := valid, df := (drawAll s.cfg ⟨s.df, s.txt⟩ reqs).pixels
        txt := (drawAll s.cfg ⟨s.df, s.txt⟩ reqs).texts, history := h, env := e }

/-- The outcome of a rule has its effect on the data: full when it completed or raised. -/
def RuleResult.hasEffect (s : State) : RuleResult → Prop
  | .done u => Effect true s u
  | .raised _ u => Effect true s u
  | .stalled _ u => Effect false s u
  | .noValue _ => True

/-- Every rule has an effect, however it ends. -/
theorem rules_effect {rule : State → RuleResult} (hrule : rule ∈ rules) (s : State) :
    (rule s).hasEffect s := by
  simp only [rules, List.mem_cons, List.not_mem_nil, or_false] at hrule
  have hsame (full : Bool) : Effect full s s := .nothing s.dev s.history s.env
  rcases hrule with rfl | rfl | rfl | rfl | rfl | rfl | rfl | rfl
  · rcases captureStage_cases s with ⟨_, h⟩ | ⟨vals, _, _, _, ⟨h, hlen⟩ | ⟨h, hlen⟩⟩ <;> rw [h]
    · exact Effect.samples (full := false) [] (Nat.zero_le _) nofun _ _
    · exact .samples vals hlen.le (fun _ => hlen) _ _
    · exact Effect.samples (full := false) vals hlen.le nofun _ _
  · rcases rmdcStage_cases s with ⟨-, h⟩ | ⟨-, -, h⟩ | ⟨xs, hv, hr, -⟩
    · rw [h]; exact hsame true
    · rw [h]; trivial
    · rw [rmdcStage_eq_centred hv hr]; exact .centred xs hv hr
  · rcases xfexecStage_cases s with ⟨-, h⟩ | ⟨-, -, h⟩ | ⟨-, -, -, h⟩ | ⟨v, _, -, -, -, h⟩ |
      ⟨v, k, _, -, -, -, h⟩ <;> rw [h]
    · exact hsame true
    · exact hsame true
    · trivial
    · rw [← transform_length s.cfg v]
      exact .bins v _ List.prefix_rfl (fun _ => transform_length s.cfg v) _ _
    · exact Effect.bins (full := false) v _ (List.take_prefix _ _) nofun _ _
  · rcases mapStage_cases s with ⟨-, h⟩ | ⟨-, -, h⟩ | ⟨es, hv, he, -⟩
    · rw [h]; exact hsame true
    · rw [h]; trivial
    · rw [mapStage_eq_mapped hv he]; exact .mapped es hv he
  · rcases renderStage_cases s with ⟨-, h⟩ | ⟨-, h⟩ | ⟨hs, ls, _, -, hh, hl, h⟩ |
      ⟨hs, ls, k, _, -, hh, hl, h⟩ <;> rw [h]
    · exact hsame true
    · trivial
    · exact .rendered hs ls _ true (memReadRange_length hh) (memReadRange_length hl)
        List.prefix_rfl (fun _ => rfl) _ _
    · exact .rendered hs ls _ false (memReadRange_length hh) (memReadRange_length hl)
        (List.take_prefix _ _) nofun _ _
  · rcases flushStage_cases s with ⟨-, h⟩ | ⟨_, _, -, -, h⟩ |
      ⟨_, _, _, _, -, ⟨-, h⟩ | ⟨-, h⟩⟩ <;> rw [h]
    · exact hsame true
    all_goals exact .nothing _ _ _
  · rcases xfinitRule_cases s with ⟨-, h⟩ | ⟨_, -, h⟩ |
      ⟨_, _, _, _, _, -, hwidth, ⟨-, h⟩ | ⟨-, h⟩⟩ <;> rw [h]
    · exact hsame true
    · exact .nothing _ _ _
    · exact .nothing _ _ _
    · exact .handle true _ hwidth nofun _ _
  · rcases xfrelRule_cases s with ⟨-, h⟩ | ⟨_, -, h⟩ | ⟨_, -, h⟩ <;> rw [h]
    · exact hsame true
    · exact .nothing _ _ _
    · exact .handle false 0#32 (by simp) (fun _ => rfl) _ _

/-- A property of the registers and the buffer spaces that zoom events, resets and the effects of rules keep
is kept by every step. -/
theorem step_keeps_data {P : State → Prop}
    (hcontrol : ∀ (s : State) (m : Mode) (q : Stage) (w : Option Collaborator) (f : FaultReg)
      (h : List Event) (e : Env), P s →
      P { s with mode := m, seq := q, waiting := w, fault := f, history := h, env := e })
    (hzoom : ∀ s, s.cfg.Valid → P s → P (zoomStep s))
    (hreset : ∀ s, s.cfg.Valid → P s → P (resetStep s))
    (heffect : ∀ full s u, s.cfg.Valid → P s → Effect full s u → P u)
    {s t : State} (hs : P s) (h : step s = .next t) : P t := by
  refine step_keeps (P := P) (fun s e => hcontrol s s.mode s.seq s.waiting s.fault s.history e)
    hzoom hreset (fun s a d => hcontrol s s.mode s.seq s.waiting s.fault _ s.env)
    (fun s c op st => hcontrol s .halted s.seq s.waiting _ _ s.env)
    (fun s m q => hcontrol s m q s.waiting s.fault s.history s.env)
    (fun rule hrule s hc hs => ?_) hs h
  have he := rules_effect hrule s
  cases hr : rule s with
  | done u => rw [hr] at he; exact heffect true s u hc hs he
  | raised c u => rw [hr] at he; exact heffect true s u hc hs he
  | stalled who u =>
    rw [hr] at he
    exact hcontrol u u.mode u.seq (some who) u.fault u.history u.env (heffect false s u hc hs he)
  | noValue input => trivial

/-! ### The canonical form -/

theorem memWf_drawAll (c : Config) (f : Frame) (reqs : List DispReq) (h : memWf f.pixels = true) :
    memWf (drawAll c f reqs).pixels = true := by
  induction reqs generalizing f with
  | nil => exact h
  | cons r reqs ih =>
    refine ih (drawRequest c f r) ?_
    cases r with
    | clear => exact memWf_memOfList _
    | setPx x y => exact memWf_memWrite h _ _
    | text x y sc str => exact h
    | flush => exact h

/-- The LBL_KHZ registers at reset list their indices (10_state.md R56). -/
theorem resetOf_lbl_keys (c : Config) : filledTo (State.resetOf c).lbl c.nlbl := by
  simp [filledTo, State.resetOf, Function.comp_def]

theorem memWf_of_filledTo {α : Type} {m : Mem α} {n : Nat} (h : filledTo m n) : memWf m = true := by
  rw [memWf_iff, h]
  exact List.pairwise_lt_range

theorem resetOf_memoriesCanonical (c : Config) : (State.resetOf c).memoriesCanonical :=
  ⟨rfl, rfl, rfl, rfl, rfl, rfl, memWf_of_filledTo (resetOf_lbl_keys c), rfl⟩

theorem Effect.memoriesCanonical {full : Bool} {s u : State} (he : Effect full s u)
    (h : s.memoriesCanonical) : u.memoriesCanonical := by
  obtain ⟨hsb, hcs, hre, him, hcolH, hcolBin, hlbl, hdf⟩ := h
  cases he with
  | nothing => exact ⟨hsb, hcs, hre, him, hcolH, hcolBin, hlbl, hdf⟩
  | handle => exact ⟨hsb, hcs, hre, him, hcolH, hcolBin, hlbl, hdf⟩
  | samples vals => exact ⟨memWf_memOfList vals, rfl, rfl, rfl, rfl, rfl, hlbl, hdf⟩
  | centred xs => exact ⟨hsb, memWf_memOfList _, rfl, rfl, rfl, rfl, hlbl, hdf⟩
  | bins v got =>
    exact ⟨hsb, hcs, memWf_memOfList _, memWf_memOfList _, rfl, rfl, hlbl, hdf⟩
  | mapped es =>
    exact ⟨hsb, hcs, hre, him, memWf_memOfList _, memWf_memOfList _, memWf_memOfList _, hdf⟩
  | rendered hs ls reqs =>
    exact ⟨hsb, hcs, hre, him, hcolH, hcolBin, hlbl, memWf_drawAll _ ⟨s.df, s.txt⟩ reqs hdf⟩

/-- Settles O54: every effect writes whole spaces in index order, or single pixels by `memWrite`. -/
theorem memoriesStayCanonical : Obligations.MemoriesStayCanonical := by
  unfold Obligations.MemoriesStayCanonical
  exact fun s t hs h => step_keeps_data (P := State.memoriesCanonical)
    (fun _ _ _ _ _ _ _ h => h) (fun _ _ h => h) (fun s _ _ => resetOf_memoriesCanonical s.cfg)
    (fun _ _ _ _ h he => he.memoriesCanonical h) hs h

/-! ### Which elements hold a value -/

theorem filledTo_nil {α : Type} : filledTo ([] : Mem α) 0 := rfl

theorem filledTo_memOfList {α : Type} (vs : List α) : filledTo (memOfList vs) vs.length :=
  memOfList_map_fst vs

/-- A pixel inside a full bitmap is written without a new index. -/
theorem filledTo_memWrite {α : Type} {m : Mem α} {n k : Nat} (h : filledTo m n) (hk : k < n)
    (v : α) : filledTo (memWrite m k v) n := by
  rw [filledTo, memWrite_map_fst_of_mem (memWf_of_filledTo h) v (by rw [h]; exact List.mem_range.2 hk)]
  exact h

theorem filledTo_drawAll {c : Config} {reqs : List DispReq} (hpixel : ∀ r ∈ reqs, r.IsPixel)
    (hin : ∀ x y, .setPx x y ∈ reqs → pixelIndex c x y < c.pixels) {f : Frame}
    (h : filledTo f.pixels c.pixels) : filledTo (drawAll c f reqs).pixels c.pixels := by
  induction reqs generalizing f with
  | nil => exact h
  | cons r reqs ih =>
    rw [List.forall_mem_cons] at hpixel
    obtain ⟨⟨x, y, rfl⟩, hreqs⟩ := hpixel
    exact ih hreqs (fun x y hmem => hin x y (List.mem_cons_of_mem _ hmem))
      (filledTo_memWrite h (hin x y List.mem_cons_self) _)

/-- A whole RENDER leaves a value in every pixel, whatever DF held (R91). -/
theorem filledTo_renderRequests {c : Config} (hc : c.Valid) (f : Frame) {hs : List (BitVec 5)}
    (hlen : hs.length = c.wCols) (ls : List (BitVec 16)) :
    filledTo (drawAll c f (renderRequests c hs ls)).pixels c.pixels := by
  rw [renderRequests_pixels]
  refine filledTo_drawAll (pixelRequests_isPixel c hs) (fun x y hmem => ?_) ?_
  · obtain ⟨hx, hy⟩ := setPx_bounds hc hlen hmem
    obtain ⟨-, ⟨-, hbar⟩, -⟩ := bitmap_of_valid hc
    exact pixelIndex_lt hx (hy.trans hbar)
  · have := filledTo_memOfList (List.replicate c.pixels 0#1)
    rwa [List.length_replicate] at this

theorem resetOf_buffersFilled (c : Config) : (State.resetOf c).buffersFilled :=
  ⟨filledTo_nil, Nat.zero_le _, filledTo_nil, Nat.zero_le _, filledTo_nil, filledTo_nil,
    Nat.zero_le _, filledTo_nil, filledTo_nil, resetOf_lbl_keys c, nofun⟩

theorem columnEnergies_length {c : Config} {binRe binIm : Mem Int} {m : Nat} {es : List Nat}
    (h : columnEnergies c binRe binIm m = some es) : es.length = c.wCols := by
  have := congrArg List.length (collect_eq_some.1 h)
  simpa [columnBins] using this.symm

theorem Effect.buffersFilled {full : Bool} {s u : State} (hc : s.cfg.Valid)
    (he : Effect full s u) (h : s.buffersFilled) : u.buffersFilled := by
  obtain ⟨hsb, hsbCnt, hcs, hinCnt, hre, him, hbinCnt, hcolH, hcolBin, hlbl, hdf⟩ := h
  cases he with
  | nothing | handle =>
    exact ⟨hsb, hsbCnt, hcs, hinCnt, hre, him, hbinCnt, hcolH, hcolBin, hlbl, hdf⟩
  | samples vals hlen =>
    exact ⟨filledTo_memOfList vals, hlen, filledTo_nil, Nat.zero_le _, filledTo_nil, filledTo_nil,
      Nat.zero_le _, filledTo_nil, filledTo_nil, hlbl, hdf⟩
  | centred xs hvalid hread =>
    have hcs' := filledTo_memOfList (xs.map (centre s.cfg (sampleSum xs)))
    rw [List.length_map, memReadRange_length hread] at hcs'
    exact ⟨hsb, hsbCnt, hcs', le_refl _, filledTo_nil, filledTo_nil, Nat.zero_le _, filledTo_nil,
      filledTo_nil, hlbl, hdf⟩
  | bins v got hgot =>
    have hre' := filledTo_memOfList (got.map Prod.fst)
    have him' := filledTo_memOfList (got.map Prod.snd)
    rw [List.length_map] at hre' him'
    have hlen := hgot.length_le
    rw [transform_length] at hlen
    exact ⟨hsb, hsbCnt, hcs, hinCnt, hre', him', hlen, filledTo_nil, filledTo_nil, hlbl, hdf⟩
  | mapped es hvalid hread =>
    have hcolH' := filledTo_memOfList
      (es.map (fun e => BitVec.ofNat 5 (height s.cfg s.gainReading e)))
    rw [List.length_map, columnEnergies_length hread] at hcolH'
    have hcolBin' := filledTo_memOfList (columnBins s.cfg (s.cfg.zoomAt s.zoomLevel.toNat))
    rw [columnBins, List.length_map, List.length_range] at hcolBin'
    have hlbl' := filledTo_memOfList (labelValues s.cfg (s.cfg.zoomAt s.zoomLevel.toNat))
    rw [labelValues, List.length_map, List.length_range] at hlbl'
    exact ⟨hsb, hsbCnt, hcs, hinCnt, hre, him, hbinCnt, hcolH', hcolBin', hlbl', hdf⟩
  | rendered hs ls reqs valid hhs hls hreqs hvalid =>
    refine ⟨hsb, hsbCnt, hcs, hinCnt, hre, him, hbinCnt, hcolH, hcolBin, hlbl, fun hv => ?_⟩
    show filledTo (drawAll s.cfg ⟨s.df, s.txt⟩ reqs).pixels s.cfg.pixels
    rw [hvalid hv]
    exact filledTo_renderRequests hc ⟨s.df, s.txt⟩ hhs ls

theorem step_buffersFilled {s t : State} (hs : s.buffersFilled) (h : step s = .next t) :
    t.buffersFilled :=
  step_keeps_data (P := State.buffersFilled) (fun _ _ _ _ _ _ _ h => h) (fun _ _ h => h)
    (fun s _ _ => resetOf_buffersFilled s.cfg) (fun _ _ _ hc h he => he.buffersFilled hc h) hs h

/-- A rule that did not stop short leaves each counter at 0 or full (48_load.md R294). -/
theorem Effect.countersWhole {s u : State} (he : Effect true s u) (h : s.countersWhole) :
    u.countersWhole := by
  intro hw
  cases he with
  | nothing | handle | mapped | rendered => exact h hw
  | samples vals _ hfull => exact ⟨.inr (hfull rfl), .inl rfl, .inl rfl⟩
  | centred xs hvalid => exact ⟨.inr hvalid, .inr rfl, .inl rfl⟩
  | bins v got _ hfull =>
    obtain ⟨hsb, hcs, -⟩ := h hw
    exact ⟨hsb, hcs, .inr (hfull rfl)⟩

theorem resetOf_countersWhole (c : Config) : (State.resetOf c).countersWhole :=
  fun _ => ⟨.inl rfl, .inl rfl, .inl rfl⟩

theorem step_countersWhole {s t : State} (hs : s.countersWhole) (h : step s = .next t) :
    t.countersWhole := by
  refine step_keeps (P := State.countersWhole) (fun _ _ h => h) (fun _ _ h => h)
    (fun s _ _ => resetOf_countersWhole s.cfg) (fun _ _ _ h => h) (fun _ _ _ _ h => h)
    (fun _ _ _ h => h) (fun rule hrule s _ hs => ?_) hs h
  have he := rules_effect hrule s
  cases hr : rule s with
  | done u => rw [hr] at he; exact Effect.countersWhole he hs
  | raised c u => rw [hr] at he; exact Effect.countersWhole he hs
  | stalled who u => exact nofun
  | noValue input => trivial

/-- Settles O55: each effect writes the elements its counter or flag then says are written; a rule that
stops short leaves the block waiting. -/
theorem buffersStayFilled : Obligations.BuffersStayFilled := by
  unfold Obligations.BuffersStayFilled
  exact fun s t hfilled hwhole h => ⟨step_buffersFilled hfilled h, step_countersWhole hwhole h⟩

/-! ### Ranges -/

theorem zoomAt_level_bounds {s : State} (hc : s.cfg.Valid) (hz : s.zoomInRange) :
    0 < s.cfg.zoomAt s.zoomLevel.toNat ∧ s.cfg.zoomAt s.zoomLevel.toNat ≤ s.cfg.n / 2 :=
  zoomAt_bounds_of_valid hc hz.1

theorem columnBins_lt {c : Config} {m i : Nat} (hm : 0 < m) (hi : i ∈ columnBins c m) : i < m := by
  obtain ⟨x, hx, rfl⟩ := List.mem_map.1 hi
  exact binIndex_lt hm (List.mem_range.1 hx)

theorem labelValues_le {c : Config} (hc : c.Valid) {m : Nat} (hm : 0 < m) (hle : m ≤ c.n / 2)
    {v : BitVec 16} (hv : v ∈ labelValues c m) : v.toNat ≤ 524 := by
  obtain ⟨j, hj, rfl⟩ := List.mem_map.1 hv
  have hbin := binIndex_lt hm (labelColumn_lt hc (List.mem_range.1 hj))
  rw [BitVec.toNat_ofNat]
  exact (Nat.mod_le _ _).trans (khz_le_of_valid hc (hbin.le.trans hle))

/-- A request that adds an entry to TXT. -/
def DispReq.isText : DispReq → Bool
  | .text _ _ _ _ => true
  | .clear | .setPx _ _ | .flush => false

theorem drawAll_texts_length_le (c : Config) (f : Frame) (reqs : List DispReq) :
    (drawAll c f reqs).texts.length ≤ f.texts.length + reqs.countP DispReq.isText := by
  induction reqs generalizing f with
  | nil => exact le_refl _
  | cons r reqs ih =>
    refine (ih (drawRequest c f r)).trans ?_
    cases r with
    | text x y sc str =>
      simp [drawRequest, DispReq.isText, List.countP_cons]
      omega
    | _ => simp [drawRequest, DispReq.isText]

theorem countP_isText_labelsFrom (c : Config) (j : Nat) (vs : List (BitVec 16)) :
    (labelsFrom c j vs).countP DispReq.isText = vs.length := by
  induction vs generalizing j with
  | nil => rfl
  | cons v vs ih => simp [labelsFrom, labelRequest, DispReq.isText, List.countP_cons, ih]

theorem countP_isText_pixelRequests (c : Config) (hs : List (BitVec 5)) :
    (pixelRequests c hs).countP DispReq.isText = 0 := by
  refine List.countP_eq_zero.2 fun r hr => ?_
  obtain ⟨x, y, rfl⟩ := pixelRequests_isPixel c hs r hr
  simp [DispReq.isText]

/-- RENDER asks for one text for each label (R272). -/
theorem countP_isText_renderRequests (c : Config) (hs : List (BitVec 5)) (ls : List (BitVec 16)) :
    (renderRequests c hs ls).countP DispReq.isText = ls.length := by
  simp [renderRequests_eq_pixels, countP_isText_pixelRequests, countP_isText_labelsFrom,
    DispReq.isText]

/-- TXT holds at most the labels, however many of RENDER's requests were taken: the first clears it. -/
theorem texts_length_le_of_prefix {c : Config} {f : Frame} {hs : List (BitVec 5)}
    {ls : List (BitVec 16)} {reqs : List DispReq} (hreqs : reqs <+: renderRequests c hs ls)
    (hf : f.texts.length ≤ ls.length) : (drawAll c f reqs).texts.length ≤ ls.length := by
  cases reqs with
  | nil => exact hf
  | cons r reqs =>
    have hcount := hreqs.sublist.countP_le (p := DispReq.isText)
    rw [countP_isText_renderRequests] at hcount
    rw [renderRequests_eq_pixels, List.append_assoc, List.singleton_append,
      List.cons_prefix_cons] at hreqs
    obtain ⟨rfl, -⟩ := hreqs
    have hle := drawAll_texts_length_le c (drawRequest c f .clear) reqs
    rw [List.countP_cons_of_neg (by simp [DispReq.isText])] at hcount
    refine hle.trans ?_
    rw [drawRequest, List.length_nil, Nat.zero_add]
    exact hcount

theorem resetOf_registersInRange (c : Config) : (State.resetOf c).registersInRange := by
  refine ⟨Nat.two_pow_pos _, Nat.two_pow_pos _, Nat.two_pow_pos _, Nat.two_pow_pos _, nofun, nofun,
    nofun, nofun, nofun, fun p hp => ?_, Nat.zero_le _⟩
  obtain ⟨j, -, rfl⟩ := List.mem_map.1 hp
  exact Nat.zero_le _

theorem Effect.registersInRange {full : Bool} {s u : State} (hc : s.cfg.Valid)
    (he : Effect full s u) (hz : s.zoomInRange) (h : s.registersInRange) : u.registersInRange := by
  obtain ⟨hsum, hmean, hgain, hhandle, hcs, hre, him, hcolH, hcolBin, hlbl, htxt⟩ := h
  cases he with
  | nothing => exact ⟨hsum, hmean, hgain, hhandle, hcs, hre, him, hcolH, hcolBin, hlbl, htxt⟩
  | handle _ _ hwidth =>
    exact ⟨hsum, hmean, hgain, hwidth, hcs, hre, him, hcolH, hcolBin, hlbl, htxt⟩
  | samples vals =>
    exact ⟨hsum, hmean, hgain, hhandle, nofun, nofun, nofun, nofun, nofun, hlbl, htxt⟩
  | centred xs hvalid hread =>
    have hlen := memReadRange_length hread
    have hwidth : sampleSum xs < 2 ^ (8 + s.cfg.logN) :=
      (hlen ▸ sampleSum_le xs).trans_lt (largest_sum_lt s.cfg)
    refine ⟨hwidth, hwidth, hgain, hhandle, fun p hp => ?_, nofun, nofun, nofun, nofun, hlbl, htxt⟩
    obtain ⟨x, hx, hp⟩ := List.mem_map.1 (mem_memOfList hp)
    exact hp ▸ centre_signedIn_of_mem hlen hx
  | bins v got hgot =>
    have hbw := one_le_bw_of_valid hc
    refine ⟨hsum, hmean, hgain, hhandle, hcs, fun p hp => ?_, fun p hp => ?_, nofun, nofun, hlbl,
      htxt⟩ <;> obtain ⟨b, hb, hp⟩ := List.mem_map.1 (mem_memOfList hp)
    · exact hp ▸ (mem_transform_signedIn hbw (hgot.subset hb)).1
    · exact hp ▸ (mem_transform_signedIn hbw (hgot.subset hb)).2
  | mapped es =>
    obtain ⟨hpos, hle⟩ := zoomAt_level_bounds hc hz
    refine ⟨hsum, hmean, ?_, hhandle, hcs, hre, him, fun p hp => ?_, fun p hp => ?_,
      fun p hp => labelValues_le hc hpos hle (mem_memOfList hp), htxt⟩
    · show (if s.cfg.gainLive then s.gainReading else s.gainLatch).toNat < _
      split
      · exact s.gainReading_lt
      · exact hgain
    · obtain ⟨e, -, hp⟩ := List.mem_map.1 (mem_memOfList hp)
      rw [← hp, ofNat_height_toNat hc]
      exact height_le_barH _ _ _
    · exact (columnBins_lt hpos (mem_memOfList hp)).trans_le hle
  | rendered hs ls reqs valid hhs hls hreqs =>
    refine ⟨hsum, hmean, hgain, hhandle, hcs, hre, him, hcolH, hcolBin, hlbl, ?_⟩
    exact (texts_length_le_of_prefix hreqs (hls ▸ htxt)).trans hls.le

theorem Effect.countersInRange {full : Bool} {s u : State} (he : Effect full s u)
    (h : s.countersInRange) : u.countersInRange := by
  obtain ⟨hsb, hcs, hbins⟩ := h
  cases he with
  | nothing | handle | mapped | rendered => exact ⟨hsb, hcs, hbins⟩
  | samples vals hlen => exact ⟨hlen, Nat.zero_le _, Nat.zero_le _⟩
  | centred => exact ⟨hsb, le_refl _, Nat.zero_le _⟩
  | bins v got hgot => exact ⟨hsb, hcs, hgot.length_le.trans (transform_length s.cfg v).le⟩

theorem Effect.zoomInRange {full : Bool} {s u : State} (he : Effect full s u)
    (h : s.zoomInRange) : u.zoomInRange := by
  obtain ⟨hlevel, hsnap⟩ := h
  cases he with
  | mapped => exact ⟨hlevel, hlevel⟩
  | nothing | handle | samples | centred | bins | rendered => exact ⟨hlevel, hsnap⟩

theorem resetOf_zoomInRange {c : Config} (hc : c.Valid) : (State.resetOf c).zoomInRange := by
  obtain ⟨-, -, -, -, -, -, -, ⟨hlevels, -⟩, -⟩ := hc
  exact ⟨hlevels, hlevels⟩

theorem zoomStep_zoomInRange {s : State} (hc : s.cfg.Valid) (h : s.zoomInRange) :
    (zoomStep s).zoomInRange := by
  obtain ⟨hlevel, hsnap⟩ := h
  refine ⟨?_, hsnap⟩
  show (zoomNext s.cfg s.zoomLevel).toNat < s.cfg.levels
  rw [zoomNext_toNat hc]
  exact Nat.mod_lt _ (Nat.zero_lt_of_lt hlevel)

theorem step_zoomInRange {s t : State} (hs : s.zoomInRange) (h : step s = .next t) :
    t.zoomInRange :=
  step_keeps_data (P := State.zoomInRange) (fun _ _ _ _ _ _ _ h => h)
    (fun _ hc h => zoomStep_zoomInRange hc h) (fun _ hc _ => resetOf_zoomInRange hc)
    (fun _ _ _ _ h he => he.zoomInRange h) hs h

theorem step_countersInRange {s t : State} (hs : s.countersInRange) (h : step s = .next t) :
    t.countersInRange :=
  step_keeps_data (P := State.countersInRange) (fun _ _ _ _ _ _ _ h => h) (fun _ _ h => h)
    (fun _ _ _ => ⟨Nat.zero_le _, Nat.zero_le _, Nat.zero_le _⟩)
    (fun _ _ _ _ h he => he.countersInRange h) hs h

/-- What MAP writes is in range when the level it reads is. -/
theorem step_registersInRange {s t : State} (hz : s.zoomInRange) (hs : s.registersInRange)
    (h : step s = .next t) : t.registersInRange :=
  (step_keeps_data (P := fun s => s.zoomInRange ∧ s.registersInRange)
    (fun _ _ _ _ _ _ _ h => h) (fun _ hc h => ⟨zoomStep_zoomInRange hc h.1, h.2⟩)
    (fun s hc _ => ⟨resetOf_zoomInRange hc, resetOf_registersInRange s.cfg⟩)
    (fun _ _ _ hc h he => ⟨he.zoomInRange h.1, he.registersInRange hc h.1 h.2⟩) ⟨hz, hs⟩ h).2

/-- Settles O56: every effect keeps the ranges; MAP's rest on the level it reads. -/
theorem registersStayInRange : Obligations.RegistersStayInRange := by
  unfold Obligations.RegistersStayInRange
  exact fun s t hregs hcnts hz h => ⟨step_registersInRange hz hregs h, step_countersInRange hcnts h,
    step_zoomInRange hz h⟩

/-! ### MODE, SEQ and FAULT; the ports -/

theorem Effect.portsCoherent {full : Bool} {s u : State} (he : Effect full s u)
    (h : s.portsCoherent) : u.portsCoherent := by
  obtain ⟨hhandle, hgain⟩ := h
  cases he with
  | handle _ _ _ hready => exact ⟨hready, hgain⟩
  | mapped es =>
    refine ⟨hhandle, fun hlive => ?_⟩
    show (if s.cfg.gainLive then s.gainReading else s.gainLatch) = 0#16
    rw [show s.cfg.gainLive = false from hlive]
    exact hgain hlive
  | nothing | samples | centred | bins | rendered => exact ⟨hhandle, hgain⟩

theorem resetOf_portsCoherent (c : Config) : (State.resetOf c).portsCoherent :=
  ⟨fun _ => rfl, fun _ => rfl⟩

theorem step_portsCoherent {s t : State} (hs : s.portsCoherent) (h : step s = .next t) :
    t.portsCoherent :=
  step_keeps_data (P := State.portsCoherent) (fun _ _ _ _ _ _ _ h => h) (fun _ _ h => h)
    (fun s _ _ => resetOf_portsCoherent s.cfg) (fun _ _ _ _ h he => he.portsCoherent h) hs h

/-- FAULT.CODE is 0 outside MODE HALTED (60_exceptions.md R301). -/
theorem State.modeCoherent.code_eq_zero {s : State} (h : s.modeCoherent) (hm : s.mode ≠ .halted) :
    s.fault.code = 0#4 := by
  obtain ⟨-, hcode, -⟩ := h
  by_contra hne
  exact hm (hcode.2 hne)

/-- A block that has no fault is coherent when SEQ is 0 in IDLE. -/
theorem modeCoherent_of_no_fault {t : State} (hm : t.mode ≠ .halted) (hcode : t.fault.code = 0#4)
    (hseq : t.mode = .idle → t.seq = .capture) : t.modeCoherent :=
  ⟨hseq, ⟨fun h => absurd h hm, fun h => absurd hcode h⟩, by rw [hcode]; exact Nat.zero_le _,
    fun h => absurd h hm⟩

/-- Fault entry leaves a coherent block: the causes are 1 to 9 (60_exceptions.md R301, R310). -/
theorem takeFault_modeCoherent {s : State} (c : Cause) (op : BitVec 8) (st : BitVec 3)
    (hw : s.waiting = none) : (takeFault c op st s).modeCoherent := by
  have hcode : c.code ≠ 0#4 ∧ c.code.toNat ≤ 9 := by cases c <;> decide
  exact ⟨nofun, ⟨fun _ => hcode.1, fun _ => rfl⟩, hcode.2, fun _ => hw⟩

theorem RuleFrame.modeCoherent {s u : State} (h : RuleFrame s u) (hs : s.modeCoherent) :
    u.modeCoherent := by
  rw [State.modeCoherent, h.mode, h.seq, h.fault, h.waiting]
  exact hs

theorem takeWord_modeCoherent {w : Word} {s t : State} (hs : s.modeCoherent)
    (hr : s.cmdReady = true) (h : takeWord w s = .next t) : t.modeCoherent := by
  rcases takeWord_next hr h with ⟨_, _, rfl⟩ | ⟨hm, hw, ⟨c, op, st, rfl⟩ | ⟨m, hloop, rfl⟩ |
    ⟨rule, hrule, ⟨u, hu, rfl⟩ | ⟨c, op, st, u, hu, rfl⟩ | ⟨who, u, hu, rfl⟩⟩⟩
  · exact hs
  · exact takeFault_modeCoherent c op st hw
  · refine modeCoherent_of_no_fault ?_ (hs.code_eq_zero (by rw [hm]; decide)) fun _ => rfl
    rcases hloop with rfl | rfl <;> exact nofun
  · exact (rules_frame_done hrule hu).modeCoherent hs
  · exact takeFault_modeCoherent c op st ((rules_frame_raised hrule hu).waiting.trans hw)
  · have hf := rules_frame_stalled hrule hu
    have hmode : u.mode = .idle := hf.mode.trans hm
    have hcoherent := hf.modeCoherent hs
    have hhalted : u.mode ≠ .halted := by rw [hmode]; decide
    exact modeCoherent_of_no_fault hhalted (hcoherent.code_eq_zero hhalted) hcoherent.1

theorem runStage_modeCoherent {s t : State} (hs : s.modeCoherent)
    (hm : s.mode = .frame1 ∨ s.mode = .run) (hw : s.waiting = none) (h : runStage s = .next t) :
    t.modeCoherent := by
  have hmem := stageRule_mem s.seq
  have hhalted : s.mode ≠ .halted := by rcases hm with hm | hm <;> rw [hm] <;> decide
  have hidle : s.mode ≠ .idle := by rcases hm with hm | hm <;> rw [hm] <;> decide
  have hcode := hs.code_eq_zero hhalted
  rcases runStage_next h with ⟨u, hu, rfl⟩ | ⟨c, u, hu, rfl⟩ | ⟨who, u, hu, rfl⟩
  · have hf := rules_frame_done hmem hu
    rw [← hf.mode] at hm hhalted hidle
    rw [← hf.fault] at hcode
    rcases advanceStage_cases hm with ⟨q, hq⟩ | hq <;> rw [hq]
    · exact modeCoherent_of_no_fault hhalted hcode fun hi => absurd hi hidle
    · exact modeCoherent_of_no_fault nofun hcode fun _ => rfl
  · exact takeFault_modeCoherent _ _ _ ((rules_frame_raised hmem hu).waiting.trans hw)
  · have hf := rules_frame_stalled hmem hu
    rw [← hf.mode] at hhalted hidle
    rw [← hf.fault] at hcode
    exact modeCoherent_of_no_fault hhalted hcode fun hi => absurd hi hidle

theorem resetOf_modeCoherent (c : Config) : (State.resetOf c).modeCoherent :=
  modeCoherent_of_no_fault nofun rfl fun _ => rfl

theorem step_modeCoherent {s t : State} (hs : s.modeCoherent) (h : step s = .next t) :
    t.modeCoherent := by
  cases step_move h with
  | zoom r _ ht => rw [ht]; exact hs
  | reset r _ ht => rw [ht]; exact resetOf_modeCoherent s.cfg
  | passes r _ _ _ ht => rw [ht]; exact hs
  | takes w ws r _ _ _ hready _ ht => exact takeWord_modeCoherent (s := s.given ws r) hs hready ht
  | stage r _ _ _ hloop hwaits ht =>
    exact runStage_modeCoherent (s := s.given s.env.cmds r) hs hloop hwaits ht

/-- Settles O57: the three parts are kept each for itself. -/
theorem controlRegistersStayCoherent : Obligations.ControlRegistersStayCoherent := by
  unfold Obligations.ControlRegistersStayCoherent
  exact fun s t h => ⟨fun hs => step_zoomInRange hs h, fun hs => step_modeCoherent hs h,
    fun hs => step_portsCoherent hs h⟩

/-! ### The columns and ZSNAP -/

theorem Effect.columnsOfZsnap {full : Bool} {s u : State} (he : Effect full s u)
    (h : s.columnsOfZsnap) : u.columnsOfZsnap := by
  cases he with
  | nothing | handle | rendered => exact h
  | samples | centred | bins => exact nofun
  | mapped => exact fun _ => ⟨rfl, rfl⟩

/-- Settles O58: MAP takes ZSNAP with the columns; whatever else writes one of them invalidates the
columns. -/
theorem columnsStayOfZsnap : Obligations.ColumnsStayOfZsnap := by
  unfold Obligations.ColumnsStayOfZsnap
  exact fun s t hs h => step_keeps_data (P := State.columnsOfZsnap) (fun _ _ _ _ _ _ _ h => h)
    (fun _ _ h => h) (fun _ _ _ => nofun) (fun _ _ _ _ h he => he.columnsOfZsnap h) hs h

/-! ### The input of the next stage -/

/-- Outside FRAME and RUN nothing is said of the next stage. -/
theorem loopReady_of_mode {t : State} (hframe : t.mode ≠ .frame1) (hrun : t.mode ≠ .run) :
    t.loopReady := by
  rintro (hm | hm)
  · exact absurd hm hframe
  · exact absurd hm hrun

theorem loopReady_of_capture {t : State} (h : t.seq = .capture) : t.loopReady := by
  intro _ _
  rw [h]
  trivial

theorem loopReady_of_waiting {t : State} (h : t.waiting.isSome = true) : t.loopReady := by
  intro _ hw
  rw [hw] at h
  cases h

/-- A completed stage leaves the input of the next one valid (R50, 40_sequencer.md R147). -/
theorem stageRule_done_loopReady {s u : State} (h : stageRule s.seq s = .done u)
    (hne : s.seq ≠ .flush) : ({ u with seq := s.seq.succ } : State).loopReady := by
  intro _ _
  cases hq : s.seq <;> rw [hq] at h <;> simp only [stageRule] at h
  case capture =>
    rcases captureStage_cases s with ⟨_, h'⟩ | ⟨_, _, _, _, ⟨h', hlen⟩ | ⟨h', -⟩⟩ <;>
      cases h.symm.trans h'
    exact decide_eq_true hlen
  case rmdc =>
    rcases rmdcStage_cases s with ⟨-, h'⟩ | ⟨-, -, h'⟩ | ⟨_, -, -, h'⟩ <;> cases h.symm.trans h'
    exact decide_eq_true rfl
  case xfexec =>
    rcases xfexecStage_cases s with ⟨-, h'⟩ | ⟨-, -, h'⟩ | ⟨-, -, -, h'⟩ | ⟨_, _, -, -, -, h'⟩ |
      ⟨_, _, _, -, -, -, h'⟩ <;> cases h.symm.trans h'
    exact decide_eq_true rfl
  case map =>
    rcases mapStage_cases s with ⟨-, h'⟩ | ⟨-, -, h'⟩ | ⟨_, -, -, h'⟩ <;> cases h.symm.trans h'
    rfl
  case render =>
    rcases renderStage_cases s with ⟨-, h'⟩ | ⟨-, h'⟩ | ⟨_, _, _, -, -, -, h'⟩ |
      ⟨_, _, _, _, -, -, -, h'⟩ <;> cases h.symm.trans h'
    rfl
  case flush => exact absurd hq hne

theorem advanceStage_loopReady {s u : State} (hf : RuleFrame s u)
    (hm : s.mode = .frame1 ∨ s.mode = .run) (h : stageRule s.seq s = .done u) :
    (advanceStage u).loopReady := by
  by_cases hq : s.seq = .flush
  · have hq' : u.seq = .flush := hf.seq.trans hq
    rcases hm with hm | hm
    · rw [advanceStage_flush_frame hq' (hf.mode.trans hm)]
      exact loopReady_of_mode nofun nofun
    · rw [advanceStage_flush_run hq' (hf.mode.trans hm)]
      exact loopReady_of_capture rfl
  · rw [advanceStage_of_ne_flush (by rwa [hf.seq]), hf.seq]
    exact stageRule_done_loopReady h hq

theorem runStage_loopReady {s t : State} (hm : s.mode = .frame1 ∨ s.mode = .run)
    (h : runStage s = .next t) : t.loopReady := by
  have hmem := stageRule_mem s.seq
  rcases runStage_next h with ⟨u, hu, rfl⟩ | ⟨c, u, hu, rfl⟩ | ⟨who, u, hu, rfl⟩
  · exact advanceStage_loopReady (rules_frame_done hmem hu) hm hu
  · exact loopReady_of_mode nofun nofun
  · exact loopReady_of_waiting rfl

theorem takeWord_loopReady {w : Word} {s t : State} (hr : s.cmdReady = true)
    (h : takeWord w s = .next t) : t.loopReady := by
  have hmodes : s.mode ≠ .frame1 ∧ s.mode ≠ .run := by
    rcases (cmdReady_iff s).1 hr with ⟨hm, -⟩ | hm <;> rw [hm] <;> decide
  rcases takeWord_next hr h with ⟨_, _, rfl⟩ | ⟨-, -, ⟨_, _, _, rfl⟩ | ⟨_, -, rfl⟩ |
    ⟨rule, hrule, ⟨u, hu, rfl⟩ | ⟨_, _, _, u, hu, rfl⟩ | ⟨_, u, hu, rfl⟩⟩⟩
  · exact loopReady_of_mode hmodes.1 hmodes.2
  · exact loopReady_of_mode nofun nofun
  · exact loopReady_of_capture rfl
  · rw [← (rules_frame_done hrule hu).mode] at hmodes
    exact loopReady_of_mode hmodes.1 hmodes.2
  · exact loopReady_of_mode nofun nofun
  · exact loopReady_of_waiting rfl

theorem step_loopReady {s t : State} (hs : s.loopReady) (h : step s = .next t) : t.loopReady := by
  cases step_move h with
  | zoom r _ ht => rw [ht]; exact hs
  | reset r _ ht => rw [ht]; exact loopReady_of_mode nofun nofun
  | passes r _ _ _ ht => rw [ht]; exact hs
  | takes w ws r _ _ _ hready _ ht => exact takeWord_loopReady (s := s.given ws r) hready ht
  | stage r _ _ _ hloop _ ht => exact runStage_loopReady (s := s.given s.env.cmds r) hloop ht

/-! ### The invariants together -/

theorem resetOf_inv {c : Config} (hc : c.Valid) : (State.resetOf c).Inv :=
  ⟨hc, resetOf_buffersFilled c, resetOf_countersWhole c, resetOf_registersInRange c,
    resetOf_zoomInRange hc, resetOf_modeCoherent c, resetOf_portsCoherent c,
    loopReady_of_mode nofun nofun⟩

/-- Settles O53: at reset every counter is 0, every buffer invalid and MODE IDLE. -/
theorem invariantsAtReset : Obligations.InvariantsAtReset := by
  unfold Obligations.InvariantsAtReset
  exact ⟨fun c hc => ⟨resetOf_inv hc, resetOf_memoriesCanonical c, nofun⟩,
    resetOf_inv (by decide), rfl⟩

theorem step_inv {s t : State} (hs : s.Inv) (h : step s = .next t) : t.Inv := by
  obtain ⟨hc, hfilled, hwhole, hregs, hz, hmode, hports, hready⟩ := hs
  have hcfg : t.cfg = s.cfg := (historyOnlyGrows s t h).1
  exact ⟨hcfg ▸ hc, step_buffersFilled hfilled h, step_countersWhole hwhole h,
    step_registersInRange hz hregs h, step_zoomInRange hz h, step_modeCoherent hmode h,
    step_portsCoherent hports h, step_loopReady hready h⟩

/-! ### Every step goes on -/

theorem memRead_of_filledTo {α : Type} {m : Mem α} {n k : Nat} (h : filledTo m n) (hk : k < n)
    (d : α) : memRead m k = some ((memRead m k).getD d) := by
  have hsome : (memRead m k).isSome = true := by
    rw [memRead_isSome_iff, h]
    exact List.mem_range.2 hk
  obtain ⟨v, hv⟩ := Option.isSome_iff_exists.1 hsome
  rw [hv]
  rfl

/-- On full bins every window of a level in range has an energy (R230). -/
theorem columnEnergies_ne_none {s : State} (hs : s.Inv) (hv : s.binCnt = s.cfg.nb) :
    columnEnergies s.cfg s.binRe s.binIm (s.cfg.zoomAt s.zoomLevel.toNat) ≠ none := by
  obtain ⟨hc, ⟨-, -, -, -, hre, him, -⟩, -, -, hz, -⟩ := hs
  obtain ⟨hpos, hle⟩ := zoomAt_level_bounds hc hz
  rw [hv] at hre him
  rw [columnEnergies_of_read (fun k hk => ⟨memRead_of_filledTo hre hk 0,
    memRead_of_filledTo him hk 0⟩) hpos hle]
  exact nofun

/-- From the invariants no rule meets an element without a value (R50, R57). -/
theorem rules_ne_noValue {s : State} (hs : s.Inv) {rule : State → RuleResult}
    (hrule : rule ∈ rules) (input : StageInput) : rule s ≠ .noValue input := by
  have hinv := hs
  obtain ⟨-, ⟨hsb, -, hcs, -, -, -, -, hcolH, -, hlbl, -⟩, -⟩ := hs
  intro hno
  simp only [rules, List.mem_cons, List.not_mem_nil, or_false] at hrule
  rcases hrule with rfl | rfl | rfl | rfl | rfl | rfl | rfl | rfl
  · rcases captureStage_cases s with ⟨_, h⟩ | ⟨_, _, _, _, ⟨h, -⟩ | ⟨h, -⟩⟩ <;>
      cases hno.symm.trans h
  · rcases rmdcStage_cases s with ⟨-, h⟩ | ⟨hv, hnone, -⟩ | ⟨_, -, -, h⟩
    · cases hno.symm.trans h
    · rw [← hv, memReadRange_of_keys hsb] at hnone
      cases hnone
    · cases hno.symm.trans h
  · rcases xfexecStage_cases s with ⟨-, h⟩ | ⟨-, -, h⟩ | ⟨-, hv, hnone, -⟩ | ⟨_, _, -, -, -, h⟩ |
      ⟨_, _, _, -, -, -, h⟩
    case inr.inr.inl =>
      rw [← hv, memReadRange_of_keys hcs] at hnone
      cases hnone
    all_goals cases hno.symm.trans h
  · rcases mapStage_cases s with ⟨-, h⟩ | ⟨hv, hnone, -⟩ | ⟨_, -, -, h⟩
    · cases hno.symm.trans h
    · exact columnEnergies_ne_none hinv hv hnone
    · cases hno.symm.trans h
  · cases hv : s.colValid with
    | false => cases hno.symm.trans (renderStage_seq hv)
    | true =>
      rw [hv, if_pos rfl] at hcolH
      rw [renderStage, if_pos hv, memReadRange_of_keys hcolH, memReadRange_of_keys hlbl] at hno
      dsimp only at hno
      split at hno <;> cases hno
  · rcases flushStage_cases s with ⟨-, h⟩ | ⟨_, _, -, -, h⟩ |
      ⟨_, _, _, _, -, ⟨-, h⟩ | ⟨-, h⟩⟩ <;> cases hno.symm.trans h
  · rcases xfinitRule_cases s with ⟨-, h⟩ | ⟨_, -, h⟩ |
      ⟨_, _, _, _, _, -, -, ⟨-, h⟩ | ⟨-, h⟩⟩ <;> cases hno.symm.trans h
  · rcases xfrelRule_cases s with ⟨-, h⟩ | ⟨_, -, h⟩ | ⟨_, -, h⟩ <;> cases hno.symm.trans h

theorem accept_goes_on {s : State} {f g : State → Host.Outcome State Fault Refusal}
    (hf : ∃ t, f s = .next t) (hg : ∃ t, g s = .next t) : ∃ t, accept s f g = .next t := by
  rcases accept_cases s f g with ⟨-, -, h⟩ | ⟨-, h⟩ | ⟨-, h⟩ <;> rw [h]
  · exact hf
  · exact hg
  · exact ⟨s, rfl⟩

theorem runCommand_goes_on {s : State} (hs : s.Inv) (i : Instr) (st : BitVec 3)
    {rule : State → RuleResult} (hrule : rule ∈ rules) : ∃ t, runCommand i st rule s = .next t := by
  refine accept_goes_on ?_ ⟨_, rfl⟩
  cases h : rule s with
  | noValue input => exact absurd h (rules_ne_noValue hs hrule input)
  | done u => exact ⟨_, rfl⟩
  | raised c u => exact ⟨_, rfl⟩
  | stalled who u => exact ⟨_, rfl⟩

theorem exec_goes_on {s : State} (hs : s.Inv) (i : Instr) : ∃ t, exec i s = .next t := by
  cases i with
  | nop => rw [exec_nop]; exact accept_goes_on ⟨_, rfl⟩ ⟨_, rfl⟩
  | frame => rw [exec_frame]; exact accept_goes_on ⟨_, rfl⟩ ⟨_, rfl⟩
  | run => rw [exec_run]; exact accept_goes_on ⟨_, rfl⟩ ⟨_, rfl⟩
  | ld space index =>
    show ∃ t, execLd space index s = .next t
    refine accept_goes_on ?_ ?_ <;> cases loadElement s space index <;> exact ⟨_, rfl⟩
  | capture | rmdc | xfexec | map | render | flush | xfinit | xfrel =>
    exact runCommand_goes_on hs _ _ (by simp [rules])

theorem takeWord_goes_on {s : State} (hs : s.Inv) (w : Word) : ∃ t, takeWord w s = .next t := by
  unfold takeWord
  cases decode w with
  | ok i => exact exec_goes_on hs i
  | error e =>
    show ∃ t, execIllegal w s = .next t
    exact accept_goes_on ⟨_, rfl⟩ ⟨_, rfl⟩

theorem runStage_goes_on {s : State} (hs : s.Inv) : ∃ t, runStage s = .next t := by
  unfold runStage
  cases h : stageRule s.seq s with
  | noValue input => exact absurd h (rules_ne_noValue hs (stageRule_mem s.seq) input)
  | done u => exact ⟨_, rfl⟩
  | raised c u => exact ⟨_, rfl⟩
  | stalled who u => exact ⟨_, rfl⟩

/-- The invariants say nothing of the words and turns to come. -/
theorem State.Inv.given {s : State} (hs : s.Inv) (words : List Word) (turns : List Turn) :
    (s.given words turns).Inv := hs

theorem sequencerTurn_goes_on {s : State} (hs : s.Inv) : ∃ t, sequencerTurn s = .next t := by
  unfold sequencerTurn
  split
  · cases s.env.cmds with
    | nil => exact ⟨_, rfl⟩
    | cons w ws => exact takeWord_goes_on (hs.given ws s.env.sched) w
  · split
    · exact ⟨_, rfl⟩
    · exact runStage_goes_on hs

theorem turn_goes_on {s : State} (hs : s.Inv) : ∃ t, turn s = .next t := by
  have htaken (r : List Turn) := sequencerTurn_goes_on (hs.given s.env.cmds r)
  unfold turn
  split
  · exact sequencerTurn_goes_on hs
  · exact htaken _
  · split
    · exact ⟨_, rfl⟩
    · exact htaken _
  · split
    · exact htaken _
    · exact sequencerTurn_goes_on hs
  · split
    · exact ⟨_, rfl⟩
    · exact sequencerTurn_goes_on hs
  · exact ⟨_, rfl⟩
  · exact ⟨_, rfl⟩

/-- Settles O60: no rule stops on an element without a value, and every step keeps each invariant. -/
theorem everyStepGoesOn : Obligations.EveryStepGoesOn := by
  unfold Obligations.EveryStepGoesOn
  intro s hs
  obtain ⟨hc, -⟩ := id hs
  obtain ⟨t, ht⟩ := turn_goes_on hs
  have hstep : step s = .next t := (step_eq_turn hc).trans ht
  exact ⟨t, hstep, step_inv hs hstep⟩

end Sys2Proof.Machine
end

section
/-! SUPPORT. Each rule with a collaborator that falls silent (20_memory.md R98, 60_exceptions.md R323): where
it stops and what it has recorded by then; a stage step by how its rule ends; then the statements about
silence and about one stage of FRAME and RUN. -/

namespace Sys2Proof.Machine

/-! ### A rule whose collaborator falls silent -/

/-- A collaborator that has too few answers left gives those (R98). -/
theorem serve_of_lt {k want : Nat} (h : k < want) : serve (some k) want = (k, some 0) := by
  simp [serve, Nat.min_eq_right h.le]

/-- CAPTURE records the drain request, and once that is acknowledged the start and the samples so far. -/
theorem captureStage_stalled {s : State} {k : Nat} (hk : s.env.capLeft = some k)
    (hlt : k < 1 + s.cfg.n) :
    ∃ (vals : List Byte) (u : State), vals.length = k - 1 ∧
      captureStage s = .stalled .captureEngine u ∧ u.history = s.history ++
        (.capDrain :: if k = 0 then [] else .capStart s.cfg.n :: sampleEvents 0 vals) := by
  cases k with
  | zero => exact ⟨[], _, rfl, by rw [captureStage, hk, serve_of_lt hlt], rfl⟩
  | succ beats =>
    have hne : beats ≠ s.cfg.n := by omega
    refine ⟨(drawMany s.env.samples Config.freeSample s.env.drawn beats).1, _, drawMany_length _ _ _ _,
      by rw [captureStage, hk, serve_of_lt hlt]; exact if_neg hne, ?_⟩
    rw [if_neg (Nat.succ_ne_zero beats)]
    exact List.append_assoc _ _ _

theorem xfinitRule_stalled {s : State} (hk : s.env.xfLeft = some 0) (hr : s.xfReady = false) :
    ∃ u, xfinitRule s = .stalled .transformEngine u ∧
      u.history = s.history ++ [.xfInitRequest s.cfg.n] :=
  ⟨_, by rw [xfinitRule, if_neg (by simp [hr]), hk, serve_of_lt Nat.one_pos], rfl⟩

theorem xfrelRule_stalled {s : State} (hk : s.env.xfLeft = some 0) (hr : s.xfReady = true) :
    ∃ u, xfrelRule s = .stalled .transformEngine u ∧
      u.history = s.history ++ [.xfRelease s.xfHandle] :=
  ⟨_, by rw [xfrelRule, if_neg (by simp [hr]), hk, serve_of_lt Nat.one_pos], rfl⟩

/-- XFEXEC records the beats that crossed the port: the inputs first, then the bins (R196, R197). -/
theorem xfexecStage_stalled {s : State} {k : Nat} (hk : s.env.xfLeft = some k)
    (hlt : k < s.cfg.n + s.cfg.nb) (hr : s.xfReady = true) (hn : s.inCnt = s.cfg.n)
    (hcs : filledTo s.cs s.cfg.n) :
    ∃ u, xfexecStage s = .stalled .transformEngine u ∧ u.history = s.history ++
      [.xfExec s.xfHandle ((s.cs.map Prod.snd).take k)
        ((transform s.cfg (s.cs.map Prod.snd)).take (k - s.cfg.n))] := by
  have hvalid : s.csValid = true := decide_eq_true hn
  refine ⟨?u, ?stalls, ?records⟩
  case stalls =>
    rw [xfexecStage, if_neg (by simp [hr]), if_neg (by simp [hvalid]), memReadRange_of_keys hcs, hk]
    dsimp only
    rw [serve_of_lt hlt, if_neg hlt.ne]
  case records => rfl

/-- RENDER records the requests that the display has taken. -/
theorem renderStage_stalled {s : State} {k : Nat} (hk : s.env.dispLeft = some k)
    (hv : s.colValid = true) (hcolH : filledTo s.colH s.cfg.wCols)
    (hlbl : filledTo s.lbl s.cfg.nlbl)
    (hlt : k < (renderRequests s.cfg (s.colH.map Prod.snd) (s.lbl.map Prod.snd)).length) :
    ∃ u, renderStage s = .stalled .display u ∧ u.history = s.history ++
      ((renderRequests s.cfg (s.colH.map Prod.snd) (s.lbl.map Prod.snd)).take k).map .disp := by
  refine ⟨?u, ?stalls, ?records⟩
  case stalls =>
    rw [renderStage, if_pos hv, memReadRange_of_keys hcolH, memReadRange_of_keys hlbl, hk]
    dsimp only
    rw [serve_of_lt hlt, if_neg hlt.ne]
  case records => rfl

/-- FLUSH records its request when the display has taken it. -/
theorem flushStage_stalled {s : State} {k : Nat} (hk : s.env.dispLeft = some k) (hlt : k < 2)
    (hv : s.dfValid = true) :
    ∃ u, flushStage s = .stalled .display u ∧
      u.history = s.history ++ if k = 0 then [] else [.disp .flush] := by
  obtain rfl | rfl : k = 0 ∨ k = 1 := by omega
  · refine ⟨?u₀, ?stalls, ?records⟩
    case stalls => rw [flushStage, if_pos hv, hk, serve_of_lt hlt]
    case records => exact (List.append_nil _).symm
  · refine ⟨?u₁, ?stalls, ?records⟩
    case stalls => rw [flushStage, if_pos hv, hk, serve_of_lt hlt]
    case records => rfl

/-! ### A command that waits -/

theorem busy_of_waiting {s : State} (h : s.waiting.isSome = true) : s.busy = true := by
  rw [State.busy, show s.stuck = true from h, Bool.or_true]

/-- A command whose rule stops short waits, with what the rule has recorded and nothing else to see
(60_exceptions.md R323). -/
theorem exec_waits {s u : State} {i : Instr} {st : BitVec 3} {rule : State → RuleResult}
    {who : Collaborator} {es : List Event} (hs : s.idleReady) (hrule : rule ∈ rules)
    (hexec : exec i s = runCommand i st rule s) (hu : rule s = .stalled who u)
    (hes : u.history = s.history ++ es) :
    ∃ t : State, exec i s = .next t ∧
      t.waiting = some who ∧ t.mode = .idle ∧ t.fault = s.fault ∧ t.cmdReady = false ∧
      t.busy = true ∧ t.history = s.history ++ es ∧ responses es = [] := by
  obtain ⟨hm, hw⟩ := hs
  have hf := rules_frame_stalled hrule hu
  have hmode : (u.waitFor who).mode = .idle := hf.mode.trans hm
  have hresponses := hf.responses_eq
  rw [hes, responses_append, List.append_right_eq_self] at hresponses
  exact ⟨u.waitFor who, hexec.trans (runCommand_stalled hm hw hu), rfl, hmode, hf.fault,
    cmdReady_of_waiting rfl (by rw [hmode]; decide), busy_of_waiting rfl, hes, hresponses⟩

/-- Settles O37: each command's rule stops where its collaborator falls silent. -/
theorem silentCollaboratorStalls : Obligations.SilentCollaboratorStalls := by
  unfold Obligations.SilentCollaboratorStalls
  intro s k hs waits
  refine ⟨fun hk hlt => ?capture, fun hk hr => ?xfinit, fun hk hr => ?xfrel,
    fun hk hlt hr hn hcs => ?xfexec, fun hk hv hcolH hlbl hlt => ?render, fun hk hlt hv => ?flush⟩
  case capture =>
    obtain ⟨vals, u, hlen, hu, hes⟩ := captureStage_stalled hk hlt
    exact ⟨vals, hlen, exec_waits hs (by simp [rules]) (exec_capture s) hu hes⟩
  case xfinit =>
    obtain ⟨u, hu, hes⟩ := xfinitRule_stalled hk hr
    exact exec_waits hs (by simp [rules]) (exec_xfinit s) hu hes
  case xfrel =>
    obtain ⟨u, hu, hes⟩ := xfrelRule_stalled hk hr
    exact exec_waits hs (by simp [rules]) (exec_xfrel s) hu hes
  case xfexec =>
    obtain ⟨u, hu, hes⟩ := xfexecStage_stalled hk hlt hr hn hcs
    exact exec_waits hs (by simp [rules]) (exec_xfexec s) hu hes
  case render =>
    obtain ⟨u, hu, hes⟩ := renderStage_stalled hk hv hcolH hlbl hlt
    exact exec_waits hs (by simp [rules]) (exec_render s) hu hes
  case flush =>
    obtain ⟨u, hu, hes⟩ := flushStage_stalled hk hlt hv
    exact exec_waits hs (by simp [rules]) (exec_flush s) hu hes

/-! ### A stage step -/

theorem runStage_done {s u : State} (h : stageRule s.seq s = .done u) :
    runStage s = .next (advanceStage u) := by
  rw [runStage, h]

theorem runStage_raised {s u : State} {c : Cause} (h : stageRule s.seq s = .raised c u) :
    runStage s = .next (takeFault c (loopOpcode s.mode) s.seq.index u) := by
  rw [runStage, h]

theorem runStage_stalled {s u : State} {who : Collaborator}
    (h : stageRule s.seq s = .stalled who u) : runStage s = .next (u.waitFor who) := by
  rw [runStage, h]

theorem succ_index {q : Stage} (h : q ≠ .flush) : q.succ.index = q.index + 1#3 := by
  cases q with
  | flush => exact absurd rfl h
  | _ => rfl

theorem loopOpcode_eq (m : Mode) : loopOpcode m = if m = .run then 0x09#8 else 0x08#8 := by
  cases m <;> rfl

/-- Settles O45: the rule keeps its frame; a completed stage advances SEQ, a raised cause is fault entry
under the loop's opcode, a silent collaborator leaves the stage waiting. -/
theorem stageAdvancesSeq : Obligations.StageAdvancesSeq := by
  unfold Obligations.StageAdvancesSeq
  intro s hm quietly stalls
  have hmem := stageRule_mem s.seq
  have hquiet {u : State} (hf : RuleFrame s u) : quietly u := ⟨hf.mode, hf.seq, hf.no_responses⟩
  refine ⟨fun u hu => ?done, fun c u hu => ?raised, fun who u hu => ?stalled,
    fun k hq hk hlt => ?capture, fun k hq hk hlt hr hn hcs => ?xfexec,
    fun k hq hk hv hcolH hlbl hlt => ?render, fun k hq hk hlt hv => ?flush⟩
  case done =>
    have hf := rules_frame_done hmem hu
    rw [runStage_done hu]
    refine ⟨hquiet hf, fun hne => ⟨s.seq.succ, succ_index hne, ?_⟩, fun hq hrun => ?_,
      fun hq hframe => ?_⟩
    · rw [advanceStage_of_ne_flush (by rwa [hf.seq]), hf.seq]
    · have hmode := hf.mode.trans hrun
      rw [advanceStage_flush_run (hf.seq.trans hq) hmode, ← hmode]
      rfl
    · rw [advanceStage_flush_frame (hf.seq.trans hq) (hf.mode.trans hframe)]
      rfl
  case raised =>
    exact ⟨hquiet (rules_frame_raised hmem hu), _, loopOpcode_eq s.mode, runStage_raised hu⟩
  case stalled =>
    have hf := rules_frame_stalled hmem hu
    have hhalted : (u.waitFor who).mode ≠ .halted := by
      rw [State.waitFor_mode, hf.mode]
      rcases hm with hm | hm <;> rw [hm] <;> decide
    exact ⟨hquiet hf, hf.fault, _, rfl, runStage_stalled hu, cmdReady_of_waiting rfl hhalted,
      busy_of_waiting rfl⟩
  case capture =>
    obtain ⟨vals, u, -, hu, -⟩ := captureStage_stalled hk hlt
    exact ⟨u, by rw [hq]; exact hu⟩
  case xfexec =>
    obtain ⟨u, hu, -⟩ := xfexecStage_stalled hk hlt hr hn hcs
    exact ⟨u, by rw [hq]; exact hu⟩
  case render =>
    obtain ⟨u, hu, -⟩ := renderStage_stalled hk hv hcolH hlbl hlt
    exact ⟨u, by rw [hq]; exact hu⟩
  case flush =>
    obtain ⟨u, hu, -⟩ := flushStage_stalled hk hlt hv
    exact ⟨u, by rw [hq]; exact hu⟩

end Sys2Proof.Machine
end

section
/-! SUPPORT. A FRAME whose collaborators all answer, stage by stage (40_sequencer.md R143), and what identical
samples become on the way (42_dc_removal.md R178, 43_fft_wrapper.md R191 c, 44_magnitude_scale.md R218);
then the statement about a silent frame. -/

namespace Sys2Proof.Machine

/-! ### A FRAME in progress -/

/-- The state with SEQ set. -/
def State.atStage (s : State) (q : Stage) : State := { s with seq := q }

/-- A FRAME is at stage `q`, waits for nobody, and has all turns to come. -/
structure State.InFrame (s : State) (q : Stage) : Prop where
  valid : s.cfg.Valid
  mode : s.mode = .frame1
  seq : s.seq = q
  waiting : s.waiting = none
  sched : s.env.sched = []

/-- From `s` to `t` no response has been sent and no fault taken. -/
structure QuietSince (s t : State) : Prop where
  fault : t.fault = s.fault
  responses : responses t.history = responses s.history

theorem QuietSince.trans {s t u : State} (h : QuietSince s t) (h' : QuietSince t u) :
    QuietSince s u :=
  ⟨h'.fault.trans h.fault, h'.responses.trans h.responses⟩

theorem stepN_succ {s t : State} (h : step s = .next t) (n : Nat) : stepN (n + 1) s = stepN n t := by
  rw [stepN, h]

theorem step_eq_sequencerTurn {s : State} (hc : s.cfg.Valid) (hsched : s.env.sched = []) :
    step s = sequencerTurn s := by
  rw [step_eq_turn hc, turn, hsched]

/-- The word FRAME starts a FRAME at stage 0 (R143). -/
theorem step_frame_word {s : State} {ws : List Word} (hc : s.cfg.Valid) (hs : s.idleReady)
    (hnext : s.sequencerIsNext) (hcmds : s.env.cmds = encode .frame :: ws) :
    step s = .next ((s.given ws s.env.sched.tail).startLoop .frame1) := by
  have hdecode : decode (encode .frame) = .ok .frame := decode_encode_formatZ (by decide)
  obtain ⟨-, hexec⟩ :=
    stepRunsDecodedCommand s _ ws hc (.inl hnext) (cmdReady_of_idleReady hs) hcmds
  exact (hexec .frame hdecode).trans (frameAndRunStart (s.given ws s.env.sched.tail) hs).1

/-- A completed stage before the last leads to the next one, without a response (R144). -/
theorem State.InFrame.step_done {s u : State} {q : Stage} (hi : s.InFrame q)
    (hu : stageRule q s = .done u) (hne : q ≠ .flush) :
    step s = .next (u.atStage q.succ) ∧ (u.atStage q.succ).InFrame q.succ ∧
      QuietSince s (u.atStage q.succ) := by
  obtain ⟨hc, hm, rfl, hw, hsched⟩ := hi
  have hf := rules_frame_done (stageRule_mem s.seq) hu
  refine ⟨?_, ⟨?_, hf.mode.trans hm, rfl, hf.waiting.trans hw, hf.sched.trans hsched⟩,
    ⟨hf.fault, hf.responses_eq⟩⟩
  · rw [step_eq_sequencerTurn hc hsched, sequencerTurn_stage hw (.inl hm), runStage_done hu,
      advanceStage_of_ne_flush (by rwa [hf.seq]), hf.seq]
    rfl
  · show u.cfg.Valid
    rw [hf.cfg]
    exact hc

/-- The last stage of a FRAME ends it with its one response (R143). -/
theorem State.InFrame.step_last {s u : State} (hi : s.InFrame .flush) (hu : flushStage s = .done u) :
    step s = .next ((u.startLoop .idle).respond .ok 0#32) ∧
      u.fault = s.fault ∧ responses ((u.startLoop .idle).respond .ok 0#32).history =
        responses s.history ++ [.respond .ok 0#32] := by
  obtain ⟨hc, hm, hq, hw, hsched⟩ := hi
  have hu' : stageRule s.seq s = .done u := by rw [hq]; exact hu
  have hf := rules_frame_done (stageRule_mem s.seq) hu'
  refine ⟨?_, hf.fault, ?_⟩
  · rw [step_eq_sequencerTurn hc hsched, sequencerTurn_stage hw (.inl hm), runStage_done hu',
      advanceStage_flush_frame (hf.seq.trans hq) (hf.mode.trans hm)]
  · rw [State.respond_history, responses_append, State.startLoop_history, hf.responses_eq,
      responses_respond]

/-! ### The stages with collaborators that answer -/

/-- A collaborator without a bound always answers (20_memory.md R98). -/
theorem answers_of_none {left : Option Nat} (h : left = none) (want : Nat) : answers left want := by
  rw [h]
  exact nofun

theorem memReadRange_memOfList_of_length {α : Type} {vs : List α} {n : Nat} (h : vs.length = n) :
    memReadRange (memOfList vs) n = some vs := by
  rw [← h, memReadRange_memOfList]

/-- XFEXEC's rule completes on a valid CS with an engine that answers. -/
theorem xfexecStage_eq_transformed {s : State} {v : List Int} (hr : s.xfReady = true)
    (hn : s.inCnt = s.cfg.n) (hread : memReadRange s.cs s.cfg.n = some v)
    (ha : answers s.env.xfLeft (s.cfg.n + s.cfg.nb)) :
    xfexecStage s = .done (s.transformed v) := by
  rw [xfexecStage_done hr hn hread ha, serve_snd_of_answers ha]
  rfl

/-- RENDER's rule completes on valid columns with a display that answers. -/
theorem renderStage_eq_rendered {s : State} {hs : List (BitVec 5)} {ls : List (BitVec 16)}
    (hc : s.colValid = true) (hh : memReadRange s.colH s.cfg.wCols = some hs)
    (hl : memReadRange s.lbl s.cfg.nlbl = some ls)
    (ha : answers s.env.dispLeft (renderRequests s.cfg hs ls).length) :
    renderStage s = .done (s.rendered (renderRequests s.cfg hs ls)) := by
  rw [renderStage_done hc hh hl ha, serve_snd_of_answers ha]
  rfl

/-- The state FLUSH leaves when the display says `ok`, before its response (R280). -/
def State.handedOver (s : State) : State := { s.flushAnswered with dev := some ⟨s.df, s.txt⟩ }

theorem flushStage_eq_handedOver {s : State} (hv : s.dfValid = true)
    (ha : answers s.env.dispLeft 2) (hok : s.flushOk = true) :
    flushStage s = .done s.handedOver :=
  (flushStage_answered hv ha).trans (if_pos hok)

/-- A tape that holds the samples of one frame fixes all of them. -/
theorem State.delivered_of_tape {s : State} {xs rest : List Byte}
    (h : s.env.samples = xs ++ rest) (hlen : xs.length = s.cfg.n) : s.delivered = xs := by
  have hmore : s.cfg.n - (s.cfg.n + rest.length) = 0 := by omega
  simp [State.delivered, drawMany, h, ← hlen]

/-- N identical samples leave CS all zero (R178). -/
theorem State.centred_replicate (s : State) (x : Byte) :
    (s.centred (List.replicate s.cfg.n x)).cs = memOfList (List.replicate s.cfg.n 0) := by
  simp [State.centred, centre_eq, sampleSum_replicate]

/-- The all-zero input gives all-zero bins (R191 c). -/
theorem transform_replicate_zero (c : Config) :
    transform c (List.replicate c.n 0) = List.replicate c.nb (0, 0) := by
  rw [transform, funext (transformBin_of_zero c fun x hx => List.eq_of_mem_replicate hx)]
  simp

/-- A MAP whose energies are 0 leaves heights of 0 (R218). -/
theorem State.mapped_zero_colH (s : State) :
    (s.mapped (List.replicate s.cfg.wCols 0)).colH =
      memOfList (List.replicate s.cfg.wCols 0#5) := by
  simp [State.mapped, height_zero]

/-- MAP takes nothing of the outside world but a gain reading (R227). -/
theorem State.mapped_env (s : State) (es : List Nat) :
    (s.mapped es).env.dispLeft = s.env.dispLeft ∧ (s.mapped es).env.flushes = s.env.flushes ∧
      (s.mapped es).env.cmds = s.env.cmds := by
  unfold State.mapped
  cases s.cfg.gainLive <;> exact ⟨rfl, rfl, rfl⟩

theorem memRead_replicate {α : Type} {n k : Nat} (hk : k < n) (a : α) :
    memRead (memOfList (List.replicate n a)) k = some a := by
  simp [hk]

/-! ### A frame of identical samples -/

/-- Stages 0 to 2 on N samples `v`: CS and the bins all zero. -/
def State.silentBins (s : State) (v : Byte) : State :=
  (((s.captured.atStage .rmdc).centred (List.replicate s.cfg.n v)).atStage .xfexec).transformed
    (List.replicate s.cfg.n 0) |>.atStage .map

/-- Stages 3 and 4 on zero bins: heights of 0 and the picture of them. -/
def State.silentPicture (s : State) : State :=
  ((s.mapped (List.replicate s.cfg.wCols 0)).atStage .render).rendered
    (renderRequests s.cfg (List.replicate s.cfg.wCols 0#5)
      (labelValues s.cfg (s.cfg.zoomAt s.zoomLevel.toNat))) |>.atStage .flush

/-- Stage 5 with a display that says `ok`, the last of the FRAME. -/
def State.silentEnd (s : State) : State := (s.handedOver.startLoop .idle).respond .ok 0#32

theorem stepN_silentBins {s : State} {v : Byte} (hi : s.InFrame .capture)
    (hv : s.delivered = List.replicate s.cfg.n v) (hr : s.xfReady = true)
    (hcap : s.env.capLeft = none) (hxf : s.env.xfLeft = none) (n : Nat) :
    stepN (n + 3) s = stepN n (s.silentBins v) ∧ (s.silentBins v).InFrame .map ∧
      QuietSince s (s.silentBins v) := by
  obtain ⟨h₀, hi₁, hr₀⟩ :=
    hi.step_done (captureStage_eq_captured (answers_of_none hcap _)) (by decide)
  have hsb : memReadRange (s.captured.atStage .rmdc).sb s.cfg.n =
      some (List.replicate s.cfg.n v) :=
    (memReadRange_memOfList_of_length s.delivered_length).trans (congrArg some hv)
  obtain ⟨h₁, hi₂, hr₁⟩ :=
    hi₁.step_done (rmdcStage_eq_centred (s := s.captured.atStage .rmdc) rfl hsb) (by decide)
  obtain ⟨h₂, hi₃, hr₂⟩ := hi₂.step_done (xfexecStage_eq_transformed
    (s := ((s.captured.atStage .rmdc).centred _).atStage .xfexec) hr rfl
    ((congrArg (memReadRange · s.cfg.n) ((s.captured.atStage .rmdc).centred_replicate v)).trans
      (memReadRange_memOfList_of_length List.length_replicate))
    (answers_of_none hxf _)) (by decide)
  exact ⟨by rw [stepN_succ h₀, stepN_succ h₁]; exact stepN_succ h₂ n, hi₃,
    (hr₀.trans hr₁).trans hr₂⟩

theorem stepN_silentPicture {s : State} (hi : s.InFrame .map) (hz : s.zoomInRange)
    (hv : s.binCnt = s.cfg.nb)
    (hbins : ∀ k, k < s.cfg.nb → memRead s.binRe k = some 0 ∧ memRead s.binIm k = some 0)
    (hdisp : s.env.dispLeft = none) (n : Nat) :
    stepN (n + 2) s = stepN n s.silentPicture ∧ s.silentPicture.InFrame .flush ∧
      QuietSince s s.silentPicture := by
  have henergies := columnEnergies_of_zero hi.valid hz.1 hbins
  obtain ⟨h₃, hi₄, hr₃⟩ := hi.step_done (mapStage_eq_mapped hv henergies) (by decide)
  have hheights : memReadRange ((s.mapped (List.replicate s.cfg.wCols 0)).atStage .render).colH
      s.cfg.wCols = some (List.replicate s.cfg.wCols 0#5) :=
    (congrArg (memReadRange · s.cfg.wCols) s.mapped_zero_colH).trans
      (memReadRange_memOfList_of_length List.length_replicate)
  have hlabels : memReadRange ((s.mapped (List.replicate s.cfg.wCols 0)).atStage .render).lbl
      s.cfg.nlbl = some (labelValues s.cfg (s.cfg.zoomAt s.zoomLevel.toNat)) :=
    memReadRange_memOfList_of_length (by simp [labelValues])
  obtain ⟨hsame, -⟩ := s.mapped_env (List.replicate s.cfg.wCols 0)
  have hleft : ((s.mapped (List.replicate s.cfg.wCols 0)).atStage .render).env.dispLeft = none :=
    hsame.trans hdisp
  obtain ⟨h₄, hi₅, hr₄⟩ := hi₄.step_done
    (renderStage_eq_rendered rfl hheights hlabels (answers_of_none hleft _)) (by decide)
  exact ⟨by rw [stepN_succ h₃]; exact stepN_succ h₄ n, hi₅, hr₃.trans hr₄⟩

/-- The device has the picture that RENDER has drawn (R280). -/
theorem State.silentEnd_dev (s : State) :
    s.silentEnd.dev = some ⟨s.silentEnd.df, s.silentEnd.txt⟩ := rfl

/-- The picture is drawn without a word or a flush answer taken. -/
theorem State.silentPicture_env {s : State} (hdisp : s.env.dispLeft = none) :
    s.silentPicture.env.dispLeft = none ∧ s.silentPicture.env.flushes = s.env.flushes ∧
      s.silentPicture.env.cmds = s.env.cmds := by
  obtain ⟨hleft, hflushes, hcmds⟩ := s.mapped_env (List.replicate s.cfg.wCols 0)
  exact ⟨congrArg (Option.map _) (hleft.trans hdisp), hflushes, hcmds⟩

/-- Settles O49: the FRAME word, then the six stages in order, each on what the one before it left. -/
theorem silentFrame : Obligations.SilentFrame := by
  unfold Obligations.SilentFrame
  intro s v rest ws oks hinv hs hready hsched hcmds hsamples hflushes hcap hxf hdisp
  obtain ⟨hc, -, -, -, hz, -⟩ := hinv
  obtain ⟨-, hw⟩ := id hs
  let start := (s.given ws []).startLoop .frame1
  have hstart : start.InFrame .capture := ⟨hc, rfl, rfl, hw, rfl⟩
  have hdelivered : start.delivered = List.replicate s.cfg.n v :=
    State.delivered_of_tape hsamples List.length_replicate
  obtain ⟨hbinSteps, hbins, hbinQuiet⟩ :=
    stepN_silentBins hstart hdelivered hready hcap hxf (n := 3)
  have hzero : ∀ k, k < s.cfg.nb → memRead (start.silentBins v).binRe k = some 0 ∧
      memRead (start.silentBins v).binIm k = some 0 :=
    fun k => State.transformed_read_of_zero _ fun x => List.eq_of_mem_replicate
  obtain ⟨hpictureSteps, hpicture, hpictureQuiet⟩ :=
    stepN_silentPicture hbins hz rfl hzero hdisp (n := 1)
  obtain ⟨hleft, hpictureFlushes, hpictureCmds⟩ :=
    State.silentPicture_env (s := start.silentBins v) hdisp
  have hok : (start.silentBins v).silentPicture.flushOk = true :=
    State.flushOk_of_tape (hpictureFlushes.trans hflushes)
  obtain ⟨hend, hfault, hresponses⟩ :=
    hpicture.step_last (flushStage_eq_handedOver rfl (answers_of_none hleft 2) hok)
  have hquiet := hbinQuiet.trans hpictureQuiet
  refine ⟨(start.silentBins v).silentPicture.silentEnd, ?steps, rfl, rfl, hfault.trans hquiet.fault,
    fun k hk => ⟨?sb, ?cs⟩, hzero, fun x hx => (start.silentBins v).mapped_zero_colH_read hx,
    State.silentEnd_dev _, hpictureCmds, hresponses.trans ?responses⟩
  case steps =>
    rw [stepN_succ (step_frame_word hc hs (.inl hsched) hcmds), hsched, List.tail_nil, hbinSteps,
      hpictureSteps, stepN_succ hend]
    rfl
  case sb =>
    show memRead (memOfList start.delivered) k = some v
    rw [hdelivered]
    exact memRead_replicate hk v
  case cs =>
    have hcs : ((start.captured.atStage .rmdc).centred (List.replicate s.cfg.n v)).cs =
        memOfList (List.replicate s.cfg.n 0) := (start.captured.atStage .rmdc).centred_replicate v
    show memRead ((start.captured.atStage .rmdc).centred (List.replicate s.cfg.n v)).cs k = some 0
    rw [hcs]
    exact memRead_replicate hk 0
  case responses => rw [hquiet.responses]; rfl

end Sys2Proof.Machine
end

section
/-! SUPPORT. FRAME against PIPE (40_sequencer.md R145). No stage rule reads MODE, SEQ, FAULT, the history or
the words to come, so a rule takes two states that differ in these alone (`Dress`) to two such states;
then the two runs are followed side by side (`Paired`). -/

namespace Sys2Proof.Machine

/-! ### What no stage rule reads -/

/-- What a FRAME and a PIPE may differ in: the control registers, the events recorded before, and the words
to come. -/
structure Dress where
  mode : Mode
  seq : Stage
  fault : FaultReg
  past : List Event
  cmds : List Word

/-- The state in another dress, its own history last. -/
def State.dressed (s : State) (d : Dress) : State :=
  { s with
    mode := d.mode, seq := d.seq, fault := d.fault, history := d.past ++ s.history
    env := { s.env with cmds := d.cmds } }

/-- The outcome of a rule with the state it leaves changed. -/
def RuleResult.map (f : State → State) : RuleResult → RuleResult
  | .done s => .done (f s)
  | .raised c s => .raised c (f s)
  | .stalled who s => .stalled who (f s)
  | .noValue input => .noValue input

theorem captureStage_dressed (s : State) (d : Dress) :
    captureStage (s.dressed d) = (captureStage s).map (·.dressed d) := by
  simp only [captureStage, State.dressed]
  rcases serve s.env.capLeft (1 + s.cfg.n) with ⟨_ | beats, left⟩
  · simp [RuleResult.map, State.record, State.clearSb, State.clearCs, State.clearBins,
      State.clearColumns]
  · by_cases hb : beats = s.cfg.n <;>
      simp [hb, RuleResult.map, State.record, State.clearSb, State.clearCs, State.clearBins,
        State.clearColumns]

theorem rmdcStage_dressed (s : State) (d : Dress) :
    rmdcStage (s.dressed d) = (rmdcStage s).map (·.dressed d) := by
  by_cases hv : s.sbCnt = s.cfg.n
  · cases hr : memReadRange s.sb s.cfg.n with
    | none =>
      simp [rmdcStage, State.sbValid, State.dressed, RuleResult.map, hv, hr]
    | some xs =>
      rw [rmdcStage_eq_centred hv hr, rmdcStage_eq_centred (s := s.dressed d) hv hr]
      rfl
  · rw [rmdcStage_seq hv, rmdcStage_seq (s := s.dressed d) hv]
    rfl

theorem xfexecStage_dressed (s : State) (d : Dress) :
    xfexecStage (s.dressed d) = (xfexecStage s).map (·.dressed d) := by
  cases hready : s.xfReady with
  | false => simp [xfexecStage, State.dressed, RuleResult.map, hready]
  | true =>
    by_cases hv : s.inCnt = s.cfg.n
    · cases hr : memReadRange s.cs s.cfg.n with
      | none => simp [xfexecStage, State.csValid, State.dressed, RuleResult.map, hready, hv, hr]
      | some v =>
        by_cases hb : (serve s.env.xfLeft (s.cfg.n + s.cfg.nb)).1 = s.cfg.n + s.cfg.nb <;>
          simp [xfexecStage, State.csValid, State.dressed, RuleResult.map, State.record,
            State.clearBins, State.clearColumns, hready, hv, hr, hb]
    · simp [xfexecStage, State.csValid, State.dressed, RuleResult.map, hready, hv]

theorem State.mapped_dressed (s : State) (d : Dress) (es : List Nat) :
    (s.dressed d).mapped es = (s.mapped es).dressed d := by
  cases hlive : s.cfg.gainLive <;>
    simp [State.mapped, State.dressed, State.gainReading, State.gainDraw, hlive]

theorem mapStage_dressed (s : State) (d : Dress) :
    mapStage (s.dressed d) = (mapStage s).map (·.dressed d) := by
  by_cases hv : s.binCnt = s.cfg.nb
  · cases he : columnEnergies s.cfg s.binRe s.binIm (s.cfg.zoomAt s.zoomLevel.toNat) with
    | none => simp [mapStage, State.binsValid, State.dressed, RuleResult.map, hv, he]
    | some es =>
      rw [mapStage_eq_mapped hv he, mapStage_eq_mapped (s := s.dressed d) hv he,
        State.mapped_dressed]
      rfl
  · rw [mapStage_seq hv, mapStage_seq (s := s.dressed d) hv]
    rfl

theorem renderStage_dressed (s : State) (d : Dress) :
    renderStage (s.dressed d) = (renderStage s).map (·.dressed d) := by
  cases hv : s.colValid with
  | false =>
    rw [renderStage_seq hv, renderStage_seq (s := s.dressed d) hv]
    rfl
  | true =>
    cases hh : memReadRange s.colH s.cfg.wCols with
    | none => simp [renderStage, State.dressed, RuleResult.map, hv, hh]
    | some hs =>
      cases hl : memReadRange s.lbl s.cfg.nlbl with
      | none => simp [renderStage, State.dressed, RuleResult.map, hv, hh, hl]
      | some ls =>
        by_cases hb : (serve s.env.dispLeft (renderRequests s.cfg hs ls).length).1 =
            (renderRequests s.cfg hs ls).length <;>
          simp [renderStage, State.dressed, RuleResult.map, State.record, hv, hh, hl, hb]

theorem flushStage_dressed (s : State) (d : Dress) :
    flushStage (s.dressed d) = (flushStage s).map (·.dressed d) := by
  cases hv : s.dfValid with
  | false => simp [flushStage, State.dressed, RuleResult.map, hv]
  | true =>
    simp only [flushStage, State.dressed, hv]
    rcases serve s.env.dispLeft 2 with ⟨_ | _ | beats, left⟩
    · simp [RuleResult.map]
    · simp [RuleResult.map, State.record, hv]
    · cases (drawOne s.env.flushes Config.freeFlush s.env.drawn).1 <;>
        simp [RuleResult.map, State.record, hv]

/-- No stage rule reads what a dress holds, or changes more of it than the history. -/
theorem stageRule_dressed (q : Stage) (s : State) (d : Dress) :
    stageRule q (s.dressed d) = (stageRule q s).map (·.dressed d) := by
  cases q with
  | capture => exact captureStage_dressed s d
  | rmdc => exact rmdcStage_dressed s d
  | xfexec => exact xfexecStage_dressed s d
  | map => exact mapStage_dressed s d
  | render => exact renderStage_dressed s d
  | flush => exact flushStage_dressed s d

/-! ### States that agree in the work done -/

/-- Two states that agree in all but MODE, SEQ, FAULT.OP, the responses and the words to come. -/
structure SameWork (u v : State) : Prop where
  core : v = { u with
    mode := v.mode, seq := v.seq, fault := v.fault, history := v.history
    env := { u.env with cmds := v.env.cmds } }
  code : v.fault.code = u.fault.code
  stage : v.fault.stage = u.fault.stage
  events : withoutResponses v.history = withoutResponses u.history

theorem SameWork.cfg {u v : State} (h : SameWork u v) : v.cfg = u.cfg := by rw [h.core]

theorem SameWork.waiting {u v : State} (h : SameWork u v) : v.waiting = u.waiting := by
  rw [h.core]

theorem SameWork.sched {u v : State} (h : SameWork u v) : v.env.sched = u.env.sched :=
  congrArg (·.env.sched) h.core

/-- New values of MODE and SEQ. -/
theorem SameWork.control {u v : State} (h : SameWork u v) (m n : Mode) (q r : Stage) :
    SameWork { u with mode := m, seq := q } { v with mode := n, seq := r } := by
  obtain ⟨hcore, hcode, hstage, hevents⟩ := h
  exact ⟨by rw [hcore], hcode, hstage, hevents⟩

theorem SameWork.given {u v : State} (h : SameWork u v) (us vs : List Word) (turns : List Turn) :
    SameWork (u.given us turns) (v.given vs turns) := by
  obtain ⟨hcore, hcode, hstage, hevents⟩ := h
  exact ⟨by rw [hcore]; rfl, hcode, hstage, hevents⟩

theorem SameWork.waitFor {u v : State} (h : SameWork u v) (who : Collaborator) :
    SameWork (u.waitFor who) (v.waitFor who) := by
  obtain ⟨hcore, hcode, hstage, hevents⟩ := h
  exact ⟨by rw [hcore]; rfl, hcode, hstage, hevents⟩

theorem SameWork.respond_left {u v : State} (h : SameWork u v) (a : Status) (d : Word) :
    SameWork (u.respond a d) v := by
  obtain ⟨hcore, hcode, hstage, hevents⟩ := h
  exact ⟨hcore, hcode, hstage, by simpa using hevents⟩

theorem SameWork.respond_right {u v : State} (h : SameWork u v) (a : Status) (d : Word) :
    SameWork u (v.respond a d) := by
  obtain ⟨hcore, hcode, hstage, hevents⟩ := h
  exact ⟨by rw [hcore]; rfl, hcode, hstage, by simpa using hevents⟩

/-- Fault entry for one cause at one stage, under whichever opcode (R310). -/
theorem SameWork.takeFault {u v : State} (h : SameWork u v) (c : Cause) (op op' : BitVec 8)
    (st : BitVec 3) : SameWork (takeFault c op st u) (takeFault c op' st v) := by
  obtain ⟨hcore, -, -, hevents⟩ := h
  exact ⟨by rw [hcore]; rfl, rfl, rfl, by simpa using hevents⟩

theorem SameWork.zoomStep {u v : State} (h : SameWork u v) :
    SameWork (zoomStep u) (zoomStep v) := by
  obtain ⟨hcore, hcode, hstage, hevents⟩ := h
  exact ⟨by rw [hcore]; rfl, hcode, hstage, by simp [hevents]⟩

/-- A second outcome `r` of one kind with the first, that leaves a state that agrees in the work done. -/
def RuleResult.matchedBy (r : RuleResult) : RuleResult → Prop
  | .done u => ∃ v, r = .done v ∧ SameWork u v
  | .raised c u => ∃ v, r = .raised c v ∧ SameWork u v
  | .stalled who u => ∃ v, r = .stalled who v ∧ SameWork u v
  | .noValue input => r = .noValue input

/-- The dress of a state without a history of its own. -/
def State.dress (s : State) : Dress := ⟨s.mode, s.seq, s.fault, s.history, s.env.cmds⟩

/-- States that agree in the work done are one state in two dresses. -/
theorem SameWork.eq_dressed {u v : State} (h : SameWork u v) :
    u = State.dressed { u with history := [] } u.dress ∧
      v = State.dressed { u with history := [] } v.dress := by
  constructor
  · simp [State.dressed, State.dress]
  · rw [h.core]
    simp [State.dressed, State.dress]

/-- A stage rule keeps the agreement (R145). -/
theorem SameWork.stageRule {u v : State} (h : SameWork u v) (q : Stage) :
    (stageRule q v).matchedBy (stageRule q u) := by
  obtain ⟨hu, hv⟩ := h.eq_dressed
  have hdressed (s : State) : SameWork (s.dressed u.dress) (s.dressed v.dress) :=
    ⟨rfl, h.code, h.stage, by simp [State.dressed, State.dress, h.events]⟩
  rw [hu, hv, stageRule_dressed, stageRule_dressed]
  cases Machine.stageRule q { u with history := [] } with
  | done s => exact ⟨_, rfl, hdressed s⟩
  | raised c s => exact ⟨_, rfl, hdressed s⟩
  | stalled who s => exact ⟨_, rfl, hdressed s⟩
  | noValue input => rfl

/-! ### The two runs side by side -/

/-- The stages that follow a stage in a frame. -/
def Stage.after : Stage → List Stage
  | .capture => [.rmdc, .xfexec, .map, .render, .flush]
  | .rmdc => [.xfexec, .map, .render, .flush]
  | .xfexec => [.map, .render, .flush]
  | .map => [.render, .flush]
  | .render => [.flush]
  | .flush => []

theorem Stage.after_of_ne_flush {q : Stage} (h : q ≠ .flush) : q.after = q.succ :: q.succ.after := by
  cases q with
  | flush => exact absurd rfl h
  | _ => rfl

/-- The single command of a stage (40_sequencer.md R142). -/
def Stage.command : Stage → Instr
  | .capture => .capture
  | .rmdc => .rmdc
  | .xfexec => .xfexec
  | .map => .map
  | .render => .render
  | .flush => .flush

/-- A stage command runs the rule of its stage and records that stage when it faults. -/
theorem exec_command (q : Stage) (s : State) :
    exec q.command s = runCommand q.command q.index (stageRule q) s := by
  cases q <;> rfl

theorem decode_command (q : Stage) : decode (encode q.command) = .ok q.command :=
  decode_encode_formatZ (by cases q <;> decide)

/-- The words of the commands of some stages. -/
def stageWords (qs : List Stage) : List Word := qs.map fun q => encode q.command

/-- Where a FRAME (`u`) and a PIPE (`v`) stand with `k` sequencer turns to come: before the same stage, both
halted, both waiting for one collaborator, or both at the end. -/
inductive Phase (k : Nat) (u v : State) : Prop
  | inStep (hu : u.mode = .frame1) (hv : v.mode = .idle) (hw : u.waiting = none)
      (hcmds : u.env.cmds = []) (hcmds' : v.env.cmds = stageWords (u.seq :: u.seq.after))
      (hk : u.seq.after.length + 1 = k)
  | halted (hu : u.mode = .halted) (hv : v.mode = .halted) (hcmds : u.env.cmds = [])
  | waits (hu : u.mode = .frame1) (hv : v.mode = .idle) (hw : u.waiting.isSome = true)
  | ended (hu : u.mode = .idle) (hv : v.mode = .idle) (hw : u.waiting = none)
      (hcmds : u.env.cmds = []) (hcmds' : v.env.cmds = [])

/-- A completed stage leads both to the next one, or both to the end. -/
theorem Phase.of_done {u v : State} (hu : u.mode = .frame1) (hv : v.mode = .idle)
    (hw : u.waiting = none) (hcmds : u.env.cmds = []) (hcmds' : v.env.cmds = stageWords u.seq.after)
    (hsame : SameWork u v) :
    SameWork (advanceStage u) (v.respond .ok 0#32) ∧
      Phase u.seq.after.length (advanceStage u) (v.respond .ok 0#32) := by
  by_cases hq : u.seq = .flush
  · rw [hq] at hcmds'
    rw [advanceStage_flush_frame hq hu]
    exact ⟨((hsame.control _ _ _ _).respond_left _ _).respond_right _ _,
      .ended rfl hv hw hcmds hcmds'⟩
  · have hafter := Stage.after_of_ne_flush hq
    rw [hafter] at hcmds'
    rw [advanceStage_of_ne_flush hq]
    exact ⟨(hsame.control _ _ _ _).respond_right _ _,
      .inStep hu hv hw hcmds hcmds' (by rw [hafter]; rfl)⟩

/-- One stage inside the FRAME against its command in the PIPE. -/
theorem runStage_command {u v : State} (hinv : u.Inv) (hsame : SameWork u v) (hu : u.mode = .frame1)
    (hv : v.mode = .idle) (hw : u.waiting = none) (hcmds : u.env.cmds = [])
    (hcmds' : v.env.cmds = stageWords u.seq.after) :
    ∃ u' v', runStage u = .next u' ∧ exec u.seq.command v = .next v' ∧ SameWork u' v' ∧
      Phase u.seq.after.length u' v' := by
  have hmem := stageRule_mem u.seq
  have hrules := hsame.stageRule u.seq
  have hw' : v.waiting = none := hsame.waiting.trans hw
  rw [exec_command]
  cases hru : stageRule u.seq u with
  | noValue input => exact absurd hru (rules_ne_noValue hinv hmem input)
  | done s =>
    rw [hru] at hrules
    obtain ⟨t, hrv, hsame'⟩ := hrules
    have hs := rules_frame_done hmem hru
    have ht := rules_frame_done hmem hrv
    obtain ⟨hend, hphase⟩ := Phase.of_done (hs.mode.trans hu) (ht.mode.trans hv)
      (hs.waiting.trans hw) (hs.cmds.trans hcmds) (by rw [ht.cmds, hcmds', hs.seq]) hsame'
    rw [hs.seq] at hphase
    exact ⟨_, _, runStage_done hru, runCommand_done hv hw' hrv, hend, hphase⟩
  | raised c s =>
    rw [hru] at hrules
    obtain ⟨t, hrv, hsame'⟩ := hrules
    exact ⟨_, _, runStage_raised hru, runCommand_raised hv hw' hrv, hsame'.takeFault c _ _ _,
      .halted rfl rfl ((rules_frame_raised hmem hru).cmds.trans hcmds)⟩
  | stalled who s =>
    rw [hru] at hrules
    obtain ⟨t, hrv, hsame'⟩ := hrules
    exact ⟨_, _, runStage_stalled hru, runCommand_stalled hv hw' hrv, hsame'.waitFor who,
      .waits ((rules_frame_stalled hmem hru).mode.trans hu)
        ((rules_frame_stalled hmem hrv).mode.trans hv) rfl⟩

/-- A sequencer turn of the FRAME against one of the PIPE (R145). -/
theorem Phase.sequencerTurn {k : Nat} {u v : State} (h : Phase (k + 1) u v) (hinv : u.Inv)
    (hsame : SameWork u v) :
    ∃ u' v', sequencerTurn u = .next u' ∧ sequencerTurn v = .next v' ∧
      u'.env.sched = u.env.sched ∧ SameWork u' v' ∧ Phase k u' v' := by
  cases h with
  | inStep hu hv hw hcmds hcmds' hk =>
    have hready : v.idleReady := ⟨hv, hsame.waiting.trans hw⟩
    obtain ⟨u', v', hstage, hexec, hsame', hphase⟩ := runStage_command hinv
      (hsame.given u.env.cmds (stageWords u.seq.after) u.env.sched) hu hv hw hcmds rfl
    refine ⟨u', v', (sequencerTurn_stage hw (.inl hu)).trans hstage, ?_,
      (runStage_frame (.inl hu) hstage).sched, hsame', Nat.succ.inj hk ▸ hphase⟩
    rw [sequencerTurn_takes (cmdReady_of_idleReady hready) hcmds', hsame.sched,
      takeWord_of_decode (decode_command u.seq)]
    exact hexec
  | halted hu hv hcmds =>
    have hpass := sequencerTurn_no_word (cmdReady_of_halted hu) hcmds
    cases hcmds' : v.env.cmds with
    | nil =>
      exact ⟨u, v, hpass, sequencerTurn_no_word (cmdReady_of_halted hv) hcmds', rfl, hsame,
        .halted hu hv hcmds⟩
    | cons w ws =>
      have htakes := sequencerTurn_takes (cmdReady_of_halted hv) hcmds'
      have hgiven : SameWork u (v.given ws v.env.sched) :=
        hsame.sched ▸ hsame.given u.env.cmds ws u.env.sched
      rcases takeWord_halted_answers (s := v.given ws v.env.sched) hv w with ⟨d, hd⟩ | hd
      · exact ⟨u, _, hpass, htakes.trans hd, rfl, hgiven.respond_right _ _, .halted hu hv hcmds⟩
      · exact ⟨u, _, hpass, htakes.trans hd, rfl, hgiven.respond_right _ _, .halted hu hv hcmds⟩
  | waits hu hv hw =>
    exact ⟨u, v, sequencerTurn_waits hw (by simp [hu]),
      sequencerTurn_waits (by rw [hsame.waiting, hw]) (by simp [hv]), rfl, hsame, .waits hu hv hw⟩
  | ended hu hv hw hcmds hcmds' =>
    exact ⟨u, v, sequencerTurn_no_word (cmdReady_of_idleReady ⟨hu, hw⟩) hcmds,
      sequencerTurn_no_word (cmdReady_of_idleReady ⟨hv, hsame.waiting.trans hw⟩) hcmds', rfl,
      hsame, .ended hu hv hw hcmds hcmds'⟩

/-- Where two runs stand is read off MODE, SEQ, the wait and the words to come alone. -/
theorem Phase.of_control {k : Nat} {u v u' v' : State} (h : Phase k u v)
    (hu : u' = { u' with
      mode := u.mode, seq := u.seq, waiting := u.waiting
      env := { u'.env with cmds := u.env.cmds } })
    (hv : v' = { v' with mode := v.mode, env := { v'.env with cmds := v.env.cmds } }) :
    Phase k u' v' := by
  rw [hu, hv]
  cases h with
  | inStep hu hv hw hcmds hcmds' hk => exact .inStep hu hv hw hcmds hcmds' hk
  | halted hu hv hcmds => exact .halted hu hv hcmds
  | waits hu hv hw => exact .waits hu hv hw
  | ended hu hv hw hcmds hcmds' => exact .ended hu hv hw hcmds hcmds'

/-- A FRAME and a PIPE on the way, with `k` sequencer turns to come. -/
structure Paired (k : Nat) (u v : State) : Prop where
  inv : u.Inv
  same : SameWork u v
  phase : Phase k u v

theorem Paired.step_zoom {k : Nat} {u v : State} {r : List Turn} (h : Paired k u v)
    (hsched : u.env.sched = .zoom :: r) :
    ∃ u' v', step u = .next u' ∧ step v = .next v' ∧ u'.env.sched = r ∧ Paired k u' v' := by
  obtain ⟨hinv, hsame, hphase⟩ := h
  obtain ⟨hc, -⟩ := id hinv
  have hu := Machine.step_zoom hc hsched
  exact ⟨_, _, hu, Machine.step_zoom (hsame.cfg ▸ hc) (hsame.sched.trans hsched), rfl,
    step_inv hinv hu, (hsame.given _ _ r).zoomStep, hphase.of_control rfl rfl⟩

theorem Paired.step_sequencer {k : Nat} {u v : State} {r : List Turn} (h : Paired (k + 1) u v)
    (hsched : u.env.sched = .sequencer :: r) :
    ∃ u' v', step u = .next u' ∧ step v = .next v' ∧ u'.env.sched = r ∧ Paired k u' v' := by
  obtain ⟨hinv, hsame, hphase⟩ := h
  obtain ⟨hc, -⟩ := id hinv
  have hsched' := hsame.sched.trans hsched
  have hphase' : Phase (k + 1) (u.given u.env.cmds r) (v.given v.env.cmds r) :=
    hphase.of_control rfl rfl
  obtain ⟨u', v', hu, hv, hr, hsame', hphase''⟩ :=
    hphase'.sequencerTurn (hinv.given _ r) (hsame.given _ _ r)
  have hstep : step u = .next u' := by
    rw [step_eq_turn hc, turn_sequencerIsNext (.inr ⟨r, hsched⟩), hsched]
    exact hu
  refine ⟨u', v', hstep, ?_, hr, step_inv hinv hstep, hsame', hphase''⟩
  rw [step_eq_turn (hsame.cfg ▸ hc), turn_sequencerIsNext (.inr ⟨r, hsched'⟩), hsched']
  exact hv

/-- The two runs stay paired over any turns of the sequencer and of the zoom controller (R145). -/
theorem Paired.stepN {turns : List Turn} (hturns : ∀ t ∈ turns, t = .zoom ∨ t = .sequencer)
    {u v : State} (h : Paired (turns.count .sequencer) u v) (hsched : u.env.sched = turns) :
    ∃ u' v', stepN turns.length u = .next u' ∧ stepN turns.length v = .next v' ∧
      Paired 0 u' v' := by
  induction turns generalizing u v with
  | nil => exact ⟨u, v, rfl, rfl, h⟩
  | cons t turns ih =>
    obtain ⟨ht, hturns⟩ := List.forall_mem_cons.1 hturns
    have hone : ∃ u' v', step u = .next u' ∧ step v = .next v' ∧ u'.env.sched = turns ∧
        Paired (turns.count .sequencer) u' v' := by
      rcases ht with rfl | rfl
      · exact h.step_zoom hsched
      · rw [List.count_cons_self] at h
        exact h.step_sequencer hsched
    obtain ⟨u₁, v₁, hu, hv, hr, hpaired⟩ := hone
    obtain ⟨u', v', hu', hv', hend⟩ := ih hturns hpaired hr
    exact ⟨u', v', (stepN_succ hu _).trans hu', (stepN_succ hv _).trans hv', hend⟩

/-- Once no turn is left, both have ended in one MODE, or both wait. -/
theorem Paired.agreeAfterFrame {u v : State} (h : Paired 0 u v) : agreeAfterFrame u v := by
  obtain ⟨-, ⟨hcore, hcode, hstage, hevents⟩, hphase⟩ := h
  refine ⟨hcore, hcode, hstage, hevents, fun hw => ?_⟩
  cases hphase with
  | inStep _ _ _ _ _ hk => cases hk
  | halted hu hv => rw [hu, hv]
  | waits _ _ hwaits => rw [hw] at hwaits; cases hwaits
  | ended hu hv => rw [hu, hv]

theorem mem_turnsAfterZooms {zooms : List Nat} {t : Turn} (h : t ∈ turnsAfterZooms zooms) :
    t = .zoom ∨ t = .sequencer := by
  obtain ⟨z, -, ht⟩ := List.mem_flatMap.1 h
  rcases List.mem_append.1 ht with ht | ht
  · exact .inl (List.eq_of_mem_replicate ht)
  · exact .inr (List.mem_singleton.1 ht)

theorem count_turnsAfterZooms (zooms : List Nat) :
    (turnsAfterZooms zooms).count .sequencer = zooms.length := by
  induction zooms with
  | nil => rfl
  | cons z zooms ih =>
    rw [turnsAfterZooms, List.flatMap_cons, ← turnsAfterZooms, List.count_append, ih]
    simp [List.count_replicate, Nat.add_comm]

/-- Settles O46: started, the FRAME stands before stage 0 as the PIPE stands before CAPTURE, and the two stay
paired over the six sequencer turns. -/
theorem frameEqualsPipe : Obligations.FrameEqualsPipe := by
  unfold Obligations.FrameEqualsPipe
  intro s zooms hinv hs hlen
  obtain ⟨hc, -⟩ := id hinv
  obtain ⟨hm, hw⟩ := id hs
  have hstart := step_frame_word (ws := [])
    (s := s.given [encode .frame] (.sequencer :: turnsAfterZooms zooms)) hc hs (.inr ⟨_, rfl⟩) rfl
  have hpaired : Paired ((turnsAfterZooms zooms).count .sequencer)
      ((s.given [] (turnsAfterZooms zooms)).startLoop .frame1)
      (s.given (pipeCommands.map encode) (turnsAfterZooms zooms)) := by
    rw [count_turnsAfterZooms, hlen]
    exact ⟨step_inv (hinv.given _ _) hstart, ⟨rfl, rfl, rfl, rfl⟩, .inStep rfl hm hw rfl rfl rfl⟩
  obtain ⟨u, v, hu, hv, hend⟩ := hpaired.stepN (fun _ => mem_turnsAfterZooms) rfl
  refine ⟨u, v, ?_, hv, hend.agreeAfterFrame⟩
  rw [Nat.add_comm, stepN_succ hstart]
  exact hu

end Sys2Proof.Machine
end
